-- ==== Sys2Proof/Word.lean ====
section
/-! DEFINITION. The core's data types: bytes, 16-bit words, register indices (spec/00_scope.md R5, R6, R8). -/

namespace Sys2Proof

/-- An 8-bit value: a memory byte, a general register, a timer (R21, R28, R50). All values are unsigned (R6). -/
abbrev Byte := BitVec 8

/-- A 16-bit value: an opcode, `I`, `pc`, a stack entry, the input latch (R23, R24, R26, R30). -/
abbrev Word := BitVec 16

/-- A register index, 0x0 to 0xF (R21): every encodable index is valid. -/
abbrev Reg := Fin 16

/-- Register 0xF in its role of flag register, `VF` (R22). -/
def Reg.flag : Reg := 15

/-- `zext_16` of an 8-bit value (R8). -/
def zext16 (b : Byte) : Word := b.setWidth 16

end Sys2Proof
end

