-- ==== Sys2Proof/Syntax.lean ====
section
/-! DEFINITION. The instructions: one constructor per row of spec/opcode_table.json (spec/30_encoding.md R74), 34 in all. -/

namespace Sys2Proof

/-- The instructions of R74, in the table's order. Operands as in R72 and R73: `x`, `y` are register indices, `kk` the
immediate byte, `nnn` the address operand as the handlers use it (zero-extended to 16 bits), `n` the row count.
`Instr.wf` states the bounds of `nnn` and `n`. -/
inductive Instr where
  /-- `00E0` CLS (R150) -/
  | cls
  /-- `00EE` RET (R100) -/
  | ret
  /-- `1nnn` JP nnn (R101) -/
  | jp (nnn : Word)
  /-- `2nnn` CALL nnn (R102) -/
  | call (nnn : Word)
  /-- `3xkk` SE Vx, kk (R103) -/
  | seImm (x : Reg) (kk : Byte)
  /-- `4xkk` SNE Vx, kk (R104) -/
  | sneImm (x : Reg) (kk : Byte)
  /-- `5xy0` SE Vx, Vy (R105) -/
  | seReg (x y : Reg)
  /-- `6xkk` LD Vx, kk (R120) -/
  | ldImm (x : Reg) (kk : Byte)
  /-- `7xkk` ADD Vx, kk (R121) -/
  | addImm (x : Reg) (kk : Byte)
  /-- `8xy0` LD Vx, Vy (R122) -/
  | ldReg (x y : Reg)
  /-- `8xy1` OR Vx, Vy (R123) -/
  | orReg (x y : Reg)
  /-- `8xy2` AND Vx, Vy (R124) -/
  | andReg (x y : Reg)
  /-- `8xy3` XOR Vx, Vy (R125) -/
  | xorReg (x y : Reg)
  /-- `8xy4` ADD Vx, Vy (R126) -/
  | addReg (x y : Reg)
  /-- `8xy5` SUB Vx, Vy (R127) -/
  | subReg (x y : Reg)
  /-- `8xy6` SHR Vx (R128); `y` is encoded and ignored (R77) -/
  | shr (x y : Reg)
  /-- `8xy7` SUBN Vx, Vy (R129) -/
  | subnReg (x y : Reg)
  /-- `8xyE` SHL Vx (R130); `y` is encoded and ignored (R77) -/
  | shl (x y : Reg)
  /-- `9xy0` SNE Vx, Vy (R106) -/
  | sneReg (x y : Reg)
  /-- `Annn` LD I, nnn (R140) -/
  | ldI (nnn : Word)
  /-- `Bnnn` JP V0, nnn (R107) -/
  | jpV0 (nnn : Word)
  /-- `Cxkk` RND Vx, kk (R131) -/
  | rnd (x : Reg) (kk : Byte)
  /-- `Dxyn` DRW Vx, Vy, n (R151) -/
  | drw (x y : Reg) (n : Nat)
  /-- `Ex9E` SKP Vx (R160) -/
  | skp (x : Reg)
  /-- `ExA1` SKNP Vx (R161) -/
  | sknp (x : Reg)
  /-- `Fx07` LD Vx, DT (R163) -/
  | ldVxDt (x : Reg)
  /-- `Fx0A` LD Vx, K (R162) -/
  | ldVxK (x : Reg)
  /-- `Fx15` LD DT, Vx (R164) -/
  | ldDtVx (x : Reg)
  /-- `Fx18` LD ST, Vx (R165) -/
  | ldStVx (x : Reg)
  /-- `Fx1E` ADD I, Vx (R141) -/
  | addI (x : Reg)
  /-- `Fx29` LD F, Vx (R142) -/
  | ldF (x : Reg)
  /-- `Fx33` LD B, Vx (R143) -/
  | ldB (x : Reg)
  /-- `Fx55` LD [I], Vx (R144) -/
  | ldMemVx (x : Reg)
  /-- `Fx65` LD Vx, [I] (R145) -/
  | ldVxMem (x : Reg)
  deriving DecidableEq, Repr

/-- The row of spec/opcode_table.json an instruction belongs to, by the table's own spelling. -/
def Instr.mnemonic : Instr → String
  | .cls => "CLS"
  | .ret => "RET"
  | .jp _ => "JP_nnn"
  | .call _ => "CALL_nnn"
  | .seImm _ _ => "SE_Vx__kk"
  | .sneImm _ _ => "SNE_Vx__kk"
  | .seReg _ _ => "SE_Vx__Vy"
  | .ldImm _ _ => "LD_Vx__kk"
  | .addImm _ _ => "ADD_Vx__kk"
  | .ldReg _ _ => "LD_Vx__Vy"
  | .orReg _ _ => "OR_Vx__Vy"
  | .andReg _ _ => "AND_Vx__Vy"
  | .xorReg _ _ => "XOR_Vx__Vy"
  | .addReg _ _ => "ADD_Vx__Vy"
  | .subReg _ _ => "SUB_Vx__Vy"
  | .shr _ _ => "SHR_Vx"
  | .subnReg _ _ => "SUBN_Vx__Vy"
  | .shl _ _ => "SHL_Vx"
  | .sneReg _ _ => "SNE_Vx__Vy"
  | .ldI _ => "LD_I__nnn"
  | .jpV0 _ => "JP_V0__nnn"
  | .rnd _ _ => "RND_Vx__kk"
  | .drw _ _ _ => "DRW_Vx__Vy__n"
  | .skp _ => "SKP_Vx"
  | .sknp _ => "SKNP_Vx"
  | .ldVxDt _ => "LD_Vx__DT"
  | .ldVxK _ => "LD_Vx__K"
  | .ldDtVx _ => "LD_DT__Vx"
  | .ldStVx _ => "LD_ST__Vx"
  | .addI _ => "ADD_I__Vx"
  | .ldF _ => "LD_F__Vx"
  | .ldB _ => "LD_B__Vx"
  | .ldMemVx _ => "LD__I___Vx"
  | .ldVxMem _ => "LD_Vx___I"

end Sys2Proof
end

