-- ==== Sys2Proof/WellFormed.lean ====
section
/-! DEFINITION. Which instructions an opcode can express (spec/30_encoding.md R72, R82). Register indices and the
immediate byte carry their bounds in their types; the address operand and the row count are checked here. -/

namespace Sys2Proof

/-- `nnn` is 12 bits wide, "a number 0 to 4095" (R72, R82). -/
def addressOperandOk (nnn : Word) : Bool := decide (nnn.toNat < 4096)

/-- `n` is 4 bits wide, "a number 0 to 15" (R72, R82). -/
def rowCountOk (n : Nat) : Bool := decide (n < 16)

/-- The operands fit their encoding's fields (log 23). -/
def Instr.wf : Instr → Bool
  | .jp nnn | .call nnn | .ldI nnn | .jpV0 nnn => addressOperandOk nnn
  | .drw _ _ n => rowCountOk n
  | .cls | .ret => true
  | .seImm _ _ | .sneImm _ _ | .ldImm _ _ | .addImm _ _ | .rnd _ _ => true
  | .seReg _ _ | .sneReg _ _ | .ldReg _ _ | .orReg _ _ | .andReg _ _ | .xorReg _ _ => true
  | .addReg _ _ | .subReg _ _ | .shr _ _ | .subnReg _ _ | .shl _ _ => true
  | .skp _ | .sknp _ | .ldVxDt _ | .ldVxK _ | .ldDtVx _ | .ldStVx _ => true
  | .addI _ | .ldF _ | .ldB _ | .ldMemVx _ | .ldVxMem _ => true

end Sys2Proof
end

