-- ==== Sys2Proof/Decode.lean ====
section
/-! DEFINITION. Instruction words: fields, the opcode map, the decoder, and after it the encoder
(spec/30_encoding.md R70 to R79). -/

namespace Sys2Proof

/-! ## Fields (R71, R72) -/

/-- `n1 = op[15:12]` -/
def nibble1 (op : Word) : BitVec 4 := op.extractLsb' 12 4

/-- `n2 = op[11:8]` -/
def nibble2 (op : Word) : BitVec 4 := op.extractLsb' 8 4

/-- `n3 = op[7:4]` -/
def nibble3 (op : Word) : BitVec 4 := op.extractLsb' 4 4

/-- `n4 = op[3:0]` -/
def nibble4 (op : Word) : BitVec 4 := op.extractLsb' 0 4

/-- A nibble that selects a register. -/
def regOfNibble (b : BitVec 4) : Reg := ⟨b.toNat, b.isLt⟩

/-- `x = op[11:8]` -/
def fieldX (op : Word) : Reg := regOfNibble (nibble2 op)

/-- `y = op[7:4]` -/
def fieldY (op : Word) : Reg := regOfNibble (nibble3 op)

/-- `n = op[3:0]`, a loop count (R73) -/
def fieldN (op : Word) : Nat := (nibble4 op).toNat

/-- `kk = op[7:0]` -/
def fieldKk (op : Word) : Byte := op.extractLsb' 0 8

/-- `nnn = op[11:0]`, zero-extended to 16 bits (R73) -/
def fieldNnn (op : Word) : Word := (op.extractLsb' 0 12).setWidth 16

/-! ## The opcode map as data (R74) -/

/-- One row of the opcode map: a word `op` selects it when `op AND mask = match` (R74). -/
structure Row where
  mnemonic : String
  matchBits : Word
  mask : Word
  deriving DecidableEq, Repr

/-- Does the word select the row (R74)? -/
def Row.selects (r : Row) (op : Word) : Bool := op &&& r.mask == r.matchBits

def opcodeRowsControl : List Row :=
  [⟨"CLS", 0x00E0, 0xFFFF⟩, ⟨"RET", 0x00EE, 0xFFFF⟩, ⟨"JP_nnn", 0x1000, 0xF000⟩,
   ⟨"CALL_nnn", 0x2000, 0xF000⟩, ⟨"SE_Vx__kk", 0x3000, 0xF000⟩, ⟨"SNE_Vx__kk", 0x4000, 0xF000⟩,
   ⟨"SE_Vx__Vy", 0x5000, 0xF00F⟩]

def opcodeRowsAlu : List Row :=
  [⟨"LD_Vx__kk", 0x6000, 0xF000⟩, ⟨"ADD_Vx__kk", 0x7000, 0xF000⟩, ⟨"LD_Vx__Vy", 0x8000, 0xF00F⟩,
   ⟨"OR_Vx__Vy", 0x8001, 0xF00F⟩, ⟨"AND_Vx__Vy", 0x8002, 0xF00F⟩, ⟨"XOR_Vx__Vy", 0x8003, 0xF00F⟩,
   ⟨"ADD_Vx__Vy", 0x8004, 0xF00F⟩, ⟨"SUB_Vx__Vy", 0x8005, 0xF00F⟩, ⟨"SHR_Vx", 0x8006, 0xF00F⟩,
   ⟨"SUBN_Vx__Vy", 0x8007, 0xF00F⟩, ⟨"SHL_Vx", 0x800E, 0xF00F⟩]

def opcodeRowsMid : List Row :=
  [⟨"SNE_Vx__Vy", 0x9000, 0xF00F⟩, ⟨"LD_I__nnn", 0xA000, 0xF000⟩, ⟨"JP_V0__nnn", 0xB000, 0xF000⟩,
   ⟨"RND_Vx__kk", 0xC000, 0xF000⟩, ⟨"DRW_Vx__Vy__n", 0xD000, 0xF000⟩]

def opcodeRowsKeysAndF : List Row :=
  [⟨"SKP_Vx", 0xE09E, 0xF0FF⟩, ⟨"SKNP_Vx", 0xE0A1, 0xF0FF⟩, ⟨"LD_Vx__DT", 0xF007, 0xF0FF⟩,
   ⟨"LD_Vx__K", 0xF00A, 0xF0FF⟩, ⟨"LD_DT__Vx", 0xF015, 0xF0FF⟩, ⟨"LD_ST__Vx", 0xF018, 0xF0FF⟩,
   ⟨"ADD_I__Vx", 0xF01E, 0xF0FF⟩, ⟨"LD_F__Vx", 0xF029, 0xF0FF⟩, ⟨"LD_B__Vx", 0xF033, 0xF0FF⟩,
   ⟨"LD__I___Vx", 0xF055, 0xF0FF⟩, ⟨"LD_Vx___I", 0xF065, 0xF0FF⟩]

/-- The 34 rows of R74, in the table's order, from spec/opcode_table.json. -/
def opcodeRows : List Row :=
  opcodeRowsControl ++ opcodeRowsAlu ++ opcodeRowsMid ++ opcodeRowsKeysAndF

/-! ## The decoder -/

/-- The rows with `n1 = 8`, disambiguated by `n4` (R76). -/
def decode8 (op : Word) : Option Instr :=
  match (nibble4 op).toNat with
  | 0x0 => some (.ldReg (fieldX op) (fieldY op))
  | 0x1 => some (.orReg (fieldX op) (fieldY op))
  | 0x2 => some (.andReg (fieldX op) (fieldY op))
  | 0x3 => some (.xorReg (fieldX op) (fieldY op))
  | 0x4 => some (.addReg (fieldX op) (fieldY op))
  | 0x5 => some (.subReg (fieldX op) (fieldY op))
  | 0x6 => some (.shr (fieldX op) (fieldY op))
  | 0x7 => some (.subnReg (fieldX op) (fieldY op))
  | 0xE => some (.shl (fieldX op) (fieldY op))
  | _ => none

/-- The rows with `n1 = E`, disambiguated by `n3` and `n4` jointly (R76). -/
def decodeE (op : Word) : Option Instr :=
  match (fieldKk op).toNat with
  | 0x9E => some (.skp (fieldX op))
  | 0xA1 => some (.sknp (fieldX op))
  | _ => none

/-- The rows with `n1 = F`, disambiguated by `n3` and `n4` jointly (R76). -/
def decodeF (op : Word) : Option Instr :=
  match (fieldKk op).toNat with
  | 0x07 => some (.ldVxDt (fieldX op))
  | 0x0A => some (.ldVxK (fieldX op))
  | 0x15 => some (.ldDtVx (fieldX op))
  | 0x18 => some (.ldStVx (fieldX op))
  | 0x1E => some (.addI (fieldX op))
  | 0x29 => some (.ldF (fieldX op))
  | 0x33 => some (.ldB (fieldX op))
  | 0x55 => some (.ldMemVx (fieldX op))
  | 0x65 => some (.ldVxMem (fieldX op))
  | _ => none

/-- The instruction a 16-bit word selects, by its nibbles: "first nibble is the primary discriminator" (R76). `none` is an
unmatched pattern, which runs as a no-op and is no error (R78, R79; log 19). -/
def decodeWord (op : Word) : Option Instr :=
  match (nibble1 op).toNat with
  | 0x0 => if op = 0x00E0 then some .cls else if op = 0x00EE then some .ret else none
  | 0x1 => some (.jp (fieldNnn op))
  | 0x2 => some (.call (fieldNnn op))
  | 0x3 => some (.seImm (fieldX op) (fieldKk op))
  | 0x4 => some (.sneImm (fieldX op) (fieldKk op))
  | 0x5 => if nibble4 op = 0 then some (.seReg (fieldX op) (fieldY op)) else none
  | 0x6 => some (.ldImm (fieldX op) (fieldKk op))
  | 0x7 => some (.addImm (fieldX op) (fieldKk op))
  | 0x8 => decode8 op
  | 0x9 => if nibble4 op = 0 then some (.sneReg (fieldX op) (fieldY op)) else none
  | 0xA => some (.ldI (fieldNnn op))
  | 0xB => some (.jpV0 (fieldNnn op))
  | 0xC => some (.rnd (fieldX op) (fieldKk op))
  | 0xD => some (.drw (fieldX op) (fieldY op) (fieldN op))
  | 0xE => decodeE op
  | _ => decodeF op

/-- Big-endian composition of two fetched bytes: the byte at the lower address is `op[15:8]` (R57). -/
def composeWord (hi lo : Byte) : Word := hi ++ lo

/-- Why a byte sequence gives no instruction. Neither is a fault of the core. -/
inductive Reject where
  /-- fewer than the two bytes every instruction has (R70) -/
  | truncated
  /-- a word that matches no row: the core runs it as a no-op (R79) -/
  | unmatched (op : Word)
  deriving DecidableEq, Repr

/-- The decoder on bytes: the first instruction and the bytes after it. Every instruction is two bytes (R70). -/
def decode : List Byte → Except Reject (Instr × List Byte)
  | hi :: lo :: rest =>
    match decodeWord (composeWord hi lo) with
    | some i => .ok (i, rest)
    | none => .error (.unmatched (composeWord hi lo))
  | _ => .error .truncated

/-! ## The encoder (R75) -/

/-- An opcode from its four nibbles, `n1` in the high bits (R71). -/
def packNibbles (n1 n2 n3 n4 : BitVec 4) : Word := n1 ++ n2 ++ n3 ++ n4

/-- The nibble that names a register. -/
def nibbleOfReg (x : Reg) : BitVec 4 := BitVec.ofNat 4 x.val

/-- Format NNN of R75. -/
def formatNnn (n1 : BitVec 4) (nnn : Word) : Word :=
  packNibbles n1 (nnn.extractLsb' 8 4) (nnn.extractLsb' 4 4) (nnn.extractLsb' 0 4)

/-- Format XKK of R75. -/
def formatXkk (n1 : BitVec 4) (x : Reg) (kk : Byte) : Word :=
  packNibbles n1 (nibbleOfReg x) (kk.extractLsb' 4 4) (kk.extractLsb' 0 4)

/-- Format XY of R75. -/
def formatXy (n1 : BitVec 4) (x y : Reg) (n4 : BitVec 4) : Word :=
  packNibbles n1 (nibbleOfReg x) (nibbleOfReg y) n4

/-- Format XYN of R75. -/
def formatXyn (n1 : BitVec 4) (x y : Reg) (n : Nat) : Word :=
  packNibbles n1 (nibbleOfReg x) (nibbleOfReg y) (BitVec.ofNat 4 n)

/-- Format X of R75. -/
def formatX (n1 : BitVec 4) (x : Reg) (n3 n4 : BitVec 4) : Word :=
  packNibbles n1 (nibbleOfReg x) n3 n4

/-- The word of a well-formed instruction (R74, R75). -/
def encode : Instr → Word
  | .cls => packNibbles 0x0 0x0 0xE 0x0
  | .ret => packNibbles 0x0 0x0 0xE 0xE
  | .jp nnn => formatNnn 0x1 nnn
  | .call nnn => formatNnn 0x2 nnn
  | .seImm x kk => formatXkk 0x3 x kk
  | .sneImm x kk => formatXkk 0x4 x kk
  | .seReg x y => formatXy 0x5 x y 0x0
  | .ldImm x kk => formatXkk 0x6 x kk
  | .addImm x kk => formatXkk 0x7 x kk
  | .ldReg x y => formatXy 0x8 x y 0x0
  | .orReg x y => formatXy 0x8 x y 0x1
  | .andReg x y => formatXy 0x8 x y 0x2
  | .xorReg x y => formatXy 0x8 x y 0x3
  | .addReg x y => formatXy 0x8 x y 0x4
  | .subReg x y => formatXy 0x8 x y 0x5
  | .shr x y => formatXy 0x8 x y 0x6
  | .subnReg x y => formatXy 0x8 x y 0x7
  | .shl x y => formatXy 0x8 x y 0xE
  | .sneReg x y => formatXy 0x9 x y 0x0
  | .ldI nnn => formatNnn 0xA nnn
  | .jpV0 nnn => formatNnn 0xB nnn
  | .rnd x kk => formatXkk 0xC x kk
  | .drw x y n => formatXyn 0xD x y n
  | .skp x => formatX 0xE x 0x9 0xE
  | .sknp x => formatX 0xE x 0xA 0x1
  | .ldVxDt x => formatX 0xF x 0x0 0x7
  | .ldVxK x => formatX 0xF x 0x0 0xA
  | .ldDtVx x => formatX 0xF x 0x1 0x5
  | .ldStVx x => formatX 0xF x 0x1 0x8
  | .addI x => formatX 0xF x 0x1 0xE
  | .ldF x => formatX 0xF x 0x2 0x9
  | .ldB x => formatX 0xF x 0x3 0x3
  | .ldMemVx x => formatX 0xF x 0x5 0x5
  | .ldVxMem x => formatX 0xF x 0x6 0x5

/-- The high byte of a word, the one at the lower address (R57). -/
def highByte (op : Word) : Byte := op.extractLsb' 8 8

/-- The low byte of a word, the one at the higher address (R57). -/
def lowByte (op : Word) : Byte := op.extractLsb' 0 8

/-- A word as the two bytes memory holds, big-endian (R57). -/
def wordBytes (op : Word) : List Byte := [highByte op, lowByte op]

/-- A well-formed instruction as the two bytes memory holds. -/
def encodeBytes (i : Instr) : List Byte := wordBytes (encode i)

/-! ## The table's word numbering -/

/-- The word that an instruction of `nbits` bits numbered as spec/opcode_table.json numbers them stands for: every
instruction is one 16-bit word (R70), and the bits from `nbits` up are 0. -/
def tableWord (nbits w : Nat) : Word := BitVec.ofNat 16 (w % 2 ^ min nbits 16)

/-- What the decoder reads from that word's bytes as the hardware stores them. -/
def decodeTableWord (nbits w : Nat) : Option Instr :=
  match decode (wordBytes (tableWord nbits w)) with
  | .ok (i, _) => some i
  | .error _ => none

end Sys2Proof
end

