-- ==== Sys2Proof/Config.lean ====
section
/-! DEFINITION. What one instance of the core fixes (the OPEN parameters of spec/00_scope.md R5) and the free values. -/

namespace Sys2Proof

/-- The OPEN parameters of R5: "a named parameter the model takes as an argument". A state carries its instance's
parameters, so a statement about every state holds for every instance. DESIGN CHOICE, log 1. -/
structure Config where
  /-- `FONT_BASE`, with its constraint 0x000 <= FONT_BASE <= 0x1B0 in the type (R53, D6). -/
  fontBase : Fin 0x1B1
  /-- `FONT_GLYPHS`: 16 glyphs of 5 bytes (R53, D7). -/
  fontGlyphs : Vector (Vector Byte 5) 16
  /-- `FX55_BUG_COMPAT`: false is the normative dump, true the observed one (R144, D11, C4; log 10). -/
  fx55BugCompat : Bool
  deriving DecidableEq, Repr

/-- The default of `FONT_GLYPHS`: the table of R53. PRESUMED by the spec itself (G1, general knowledge), log 27. -/
def Config.customaryGlyphs : Vector (Vector Byte 5) 16 :=
  #v[#v[0xF0, 0x90, 0x90, 0x90, 0xF0], #v[0x20, 0x60, 0x20, 0x20, 0x70],
     #v[0xF0, 0x10, 0xF0, 0x80, 0xF0], #v[0xF0, 0x10, 0xF0, 0x10, 0xF0],
     #v[0x90, 0x90, 0xF0, 0x10, 0x10], #v[0xF0, 0x80, 0xF0, 0x10, 0xF0],
     #v[0xF0, 0x80, 0xF0, 0x90, 0xF0], #v[0xF0, 0x10, 0x20, 0x40, 0x40],
     #v[0xF0, 0x90, 0xF0, 0x90, 0xF0], #v[0xF0, 0x90, 0xF0, 0x10, 0xF0],
     #v[0xF0, 0x90, 0xF0, 0x90, 0x90], #v[0xE0, 0x90, 0xE0, 0x90, 0xE0],
     #v[0xF0, 0x80, 0x80, 0x80, 0xF0], #v[0xE0, 0x90, 0x90, 0x90, 0xE0],
     #v[0xF0, 0x80, 0xF0, 0x80, 0xF0], #v[0xF0, 0x80, 0xF0, 0x80, 0x80]]

/-- The defaults the spec uses in its own vectors: `FONT_BASE = 0x000`, the table of R53, `FX55_BUG_COMPAT = false`
(R5). DESIGN CHOICE, log 1. -/
def Config.default : Config where
  fontBase := 0
  fontGlyphs := Config.customaryGlyphs
  fx55BugCompat := false

/-- The one property of the glyphs that the source relies on (R53, D7): glyph 0 has at least one set bit. Not put in the
type: a statement that needs it has it as a premise (log 25). -/
def Config.glyphZeroVisible (c : Config) : Prop := ∃ r : Fin 5, c.fontGlyphs[(0 : Fin 16)][r] ≠ 0

/-- The random bytes of `Cxkk` when the host presents none: one for each draw, and nothing is assumed of any (R32, D12, U1).
No body: a free value, log 2. -/
opaque Config.freeRnd : Nat → Byte

end Sys2Proof
end

