-- ==== Sys2Proof/Machine/State.lean ====
section
/-! DEFINITION. The machine's state as plain data, its faults and refusals, and the state after reset
(spec/10_state.md R20 to R38, spec/60_exceptions.md R170). -/

namespace Sys2Proof.Machine

/-- The kind of a memory access that can leave the memory array (R55, R170). -/
inductive AccessKind where
  /-- instruction fetch -/
  | fetch
  /-- sprite row read of `Dxyn` -/
  | sprite
  /-- BCD write of `Fx33` -/
  | bcd
  /-- register dump of `Fx55` -/
  | dump
  /-- register load of `Fx65` -/
  | load
  deriving DecidableEq, Repr

/-- The four faults of R170: the values of the fault latch. A fault is recorded in the latch and the machine goes to the next
state with it (R176); no step of this model answers with the outcome `fault` (log 4). -/
inductive Fault where
  /-- code 1: raised by `2nnn` when `sp = 16` (R171). Safe: the machine halts. -/
  | stackOverflow
  /-- code 2: raised by `00EE` when `sp = 0` (R172). Safe: the machine halts. -/
  | stackUnderflow
  /-- code 3: raised by the fetch, `Dxyn`, `Fx33`, `Fx55`, `Fx65` for an address above 0xFFF; `addr` is the lowest offending
  address (R173). Safe: the machine halts. -/
  | outOfBoundsAccess (addr : Nat) (kind : AccessKind)
  /-- code 4: raised by `Ex9E`, `ExA1` when `V[x] > 15`; `value` is `V[x]` (R174, D8, log 8). Safe: the machine halts. -/
  | keyIndexOutOfRange (value : Byte)
  deriving DecidableEq, Repr

/-- What the model has no move for. None is answered by an instruction: the last three are host moves the spec rules out. -/
inductive Refusal where
  /-- an instruction whose arm has no meaning yet; no arm of this model answers it. Safe. -/
  | notModelled (mnemonic : String)
  /-- a host that loads after the first step (R65 (b), D29, U10). Safe: the model gives it no move. -/
  | loadAfterFirstStep
  /-- a host that loads outside 0x200 to 0xFFF (R185, D29, U10). Safe: the model gives it no move. -/
  | loadOutsideProgramArea (addr : Nat)
  /-- a program image of more than 3584 bytes (R54, R194, U7). Safe: there is no launch state. -/
  | imageTooLong (length : Nat)
  deriving DecidableEq, Repr

/-- Memory (R50): the bytes that differ from their reset content, as (address, byte) pairs with strictly rising addresses.
`Memory.wf` in Machine/Ops.lean states the canonical form (log 14). -/
abbrev Memory := List Host.Cell

/-- The framebuffer (R29): 32 rows of 64 single-bit pixels; bit `cx` of row `cy` is `FB[cx, cy]` (log 15). -/
abbrev Framebuffer := Vector (BitVec 64) 32

/-- All the state of the core (R20), the parameters of the instance (`cfg`, R5), and the model's own two fields for the
random input of R32 (`rndIn`, `rndDraws`, log 2). -/
structure State where
  /-- the OPEN parameters of this instance; no step changes them (log 1) -/
  cfg : Config
  /-- Memory (R50) -/
  mem : Memory
  /-- `V[0]` to `V[15]` (R21); `V[15]` is the flag register (R22) -/
  v : Vector Byte 16
  /-- `I` (R23) -/
  i : Word
  /-- `pc` (R24) -/
  pc : Word
  /-- `STK[0]` to `STK[15]` (R26) -/
  stk : Vector Word 16
  /-- `sp`, 0 to 16 inclusive (R27) -/
  sp : Fin 17
  /-- `DT` (R28) -/
  dt : Byte
  /-- `ST` (R28) -/
  st : Byte
  /-- `FB` (R29) -/
  fb : Framebuffer
  /-- `K`, the input latch: bit `k` is key `k` (R30) -/
  k : Word
  /-- the fault latch (R35) -/
  fault : Option Fault
  /-- the byte the host presents on the `rnd` port for the coming step, if any (R185; model's own field, log 2) -/
  rndIn : Option Byte
  /-- how many free random bytes have been drawn (model's own field, log 2) -/
  rndDraws : Nat
  deriving DecidableEq, Repr

/-- The state after reset of an instance with the given parameters: the table of R38. Memory lists nothing, so that every
byte reads as its reset content, the font table included (R53, R192). The zeros of `V`, `I`, `sp`, `STK`, `DT`, `ST`, `K`
are the spec's decision D5 (log 3). -/
def State.resetWith (c : Config) : State where
  cfg := c
  mem := []
  v := Vector.replicate 16 0x00
  i := 0x0000
  pc := 0x0200
  stk := Vector.replicate 16 0x0000
  sp := 0
  dt := 0x00
  st := 0x00
  fb := Vector.replicate 32 0
  k := 0x0000
  fault := none
  rndIn := none
  rndDraws := 0

/-- The state right after reset, with the spec's default parameters (R5, R38; log 1). -/
def State.reset : State := State.resetWith Config.default

end Sys2Proof.Machine
end

