-- ==== Sys2Proof/Machine/Ops.lean ====
section
/-! DEFINITION. The named operations over memory, registers, stack, framebuffer, timers and the fault latch, and taking a
fault (spec/00_scope.md R8, spec/20_memory.md, spec/60_exceptions.md R170 to R179). -/

namespace Sys2Proof.Machine

/-! ## Memory (R50 to R58) -/

/-- The number of memory bytes, `MEM_SIZE` (R5, R50). -/
def memSize : Nat := 0x1000

/-- Where programs start, `PROG_BASE` (R5, R51). -/
def progBase : Nat := 0x200

/-- What an address reads as when nothing has written it: the reset content, that is the font table at `FONT_BASE` and zero
elsewhere (R38, R53, R192). -/
def resetByte (c : Config) (a : Nat) : Byte :=
  if c.fontBase.val ≤ a ∧ a < c.fontBase.val + 80 then
    c.fontGlyphs[Fin.ofNat 16 ((a - c.fontBase.val) / 5)][Fin.ofNat 5 ((a - c.fontBase.val) % 5)]
  else 0x00

/-- The byte listed for an address, if one is. -/
def Memory.lookup : Memory → Nat → Option Byte
  | [], _ => none
  | c :: rest, a => if c.1 = a then some c.2 else Memory.lookup rest a

/-- The byte at an address: the listed one, else the reset content. -/
def Memory.read (c : Config) (m : Memory) (a : Nat) : Byte := (Memory.lookup m a).getD (resetByte c a)

/-- The list without any entry for an address. -/
def Memory.erase : Memory → Nat → Memory
  | [], _ => []
  | c :: rest, a => if c.1 = a then Memory.erase rest a else c :: Memory.erase rest a

/-- The list with an entry put before the first one of a higher address. -/
def Memory.insert : Memory → Nat → Byte → Memory
  | [], a, b => [(a, b)]
  | c :: rest, a, b => if a < c.1 then (a, b) :: c :: rest else c :: Memory.insert rest a b

/-- Store a byte; storing the reset content removes the entry, so that equal memories are equal lists. -/
def Memory.write (c : Config) (m : Memory) (a : Nat) (b : Byte) : Memory :=
  if b = resetByte c a then Memory.erase m a else Memory.insert (Memory.erase m a) a b

/-- Every address of the list is above `lo` and they rise strictly. -/
def Memory.risesFrom : Nat → Memory → Bool
  | _, [] => true
  | lo, c :: rest => decide (lo ≤ c.1) && Memory.risesFrom (c.1 + 1) rest

/-- The canonical form: strictly rising addresses, all inside the memory array, no entry equal to what an unlisted address
reads as. -/
def Memory.wf (c : Config) (m : Memory) : Bool :=
  Memory.risesFrom 0 m && m.all (fun e => decide (e.1 < memSize) && decide (e.2 ≠ resetByte c e.1))

/-- The byte at an address of the machine's memory. -/
def State.readByte (s : State) (a : Nat) : Byte := Memory.read s.cfg s.mem a

/-- The machine after a store of one byte. -/
def State.writeByte (s : State) (a : Nat) (b : Byte) : State := { s with mem := Memory.write s.cfg s.mem a b }

/-- Store bytes at consecutive addresses, lowest first (R58). -/
def State.writeBytes (s : State) (a : Nat) : List Byte → State
  | [] => s
  | b :: rest => (s.writeByte a b).writeBytes (a + 1) rest

/-- The fault of an access to `count` consecutive bytes from `base`, if it has one: OutOfBoundsAccess with the lowest
address above 0xFFF. Addresses are exact integers, never reduced (R55, R56, R173; log 12). -/
def accessFault (base count : Nat) (kind : AccessKind) : Option Fault :=
  if count = 0 ∨ base + count ≤ memSize then none else some (.outOfBoundsAccess (max base memSize) kind)

/-- `MemRead(addr, 1)` of R55. -/
def State.memRead (s : State) (a : Nat) (kind : AccessKind) : Except Fault Byte :=
  match accessFault a 1 kind with
  | some f => .error f
  | none => .ok (s.readByte a)

/-- `MemWrite(addr, 1, v)` of R55. -/
def State.memWrite (s : State) (a : Nat) (b : Byte) (kind : AccessKind) : Except Fault State :=
  match accessFault a 1 kind with
  | some f => .error f
  | none => .ok (s.writeByte a b)

/-! ## Fetch (R91, R92) -/

/-- Phase 1 without the advance: the two bytes at `pc` and `pc + 1`, big-endian; the first read that is out of bounds
gives the fault (R91). -/
def State.fetch (s : State) : Except Fault Word :=
  match s.memRead s.pc.toNat .fetch with
  | .error f => .error f
  | .ok hi =>
    match s.memRead (s.pc.toNat + 1) .fetch with
    | .error f => .error f
    | .ok lo => .ok (composeWord hi lo)

/-- The big-endian word at an address, as the fetch composes it (R57). -/
def State.wordAt (s : State) (a : Nat) : Word := composeWord (s.readByte a) (s.readByte (a + 1))

/-- `pc <- pc + 2`: the advance of the fetch (R92), and a skip on the advanced `pc` (R8, R109). -/
def State.advancePc (s : State) : State := { s with pc := s.pc + 2 }

/-- `pc <- target` -/
def State.jumpTo (s : State) (target : Word) : State := { s with pc := target }

/-! ## Registers (R21 to R23) -/

/-- `V[x]` -/
def State.getV (s : State) (x : Reg) : Byte := s.v[x]

/-- `V[x] <- b` -/
def State.setV (s : State) (x : Reg) (b : Byte) : State := { s with v := s.v.set x.val b x.isLt }

/-- `I <- a` -/
def State.setI (s : State) (a : Word) : State := { s with i := a }

/-! ## Call stack (R26, R27) -/

/-- Push a return address: store at `STK[sp]`, then increment `sp`; nothing when the stack is full (R102). -/
def State.push (s : State) (a : Word) : Option State :=
  if h : s.sp.val < 16 then
    some { s with stk := s.stk.set s.sp.val a h, sp := ⟨s.sp.val + 1, by omega⟩ }
  else none

/-- Pop a return address: decrement `sp`, then read `STK[sp]`, which keeps its value (R100, D23, log 22); nothing when the
stack is empty. -/
def State.pop (s : State) : Option (Word × State) :=
  if h : s.sp.val = 0 then none
  else
    have hs : s.sp.val - 1 < 16 := by have := s.sp.isLt; omega
    some (s.stk[s.sp.val - 1]'hs, { s with sp := ⟨s.sp.val - 1, by omega⟩ })

/-! ## Framebuffer (R29, R150 to R153) -/

/-- `FB[cx, cy]` -/
def Framebuffer.pixel (fb : Framebuffer) (cx : Fin 64) (cy : Fin 32) : Bool := fb[cy].getLsbD cx.val

/-- The framebuffer with pixel `(cx, cy)` XORed with 1. -/
def Framebuffer.toggle (fb : Framebuffer) (cx : Fin 64) (cy : Fin 32) : Framebuffer :=
  fb.set cy.val (fb[cy] ^^^ BitVec.twoPow 64 cx.val) cy.isLt

/-- Every pixel 0 (R150). -/
def Framebuffer.clear : Framebuffer := Vector.replicate 32 0

/-- The machine with every pixel 0 (R150). -/
def State.clearFb (s : State) : State := { s with fb := Framebuffer.clear }

/-! ## Timers (R28, R96) -/

/-- Lower a timer by one, never below zero. -/
def decTimer (t : Byte) : Byte := if t = 0 then 0 else t - 1

/-- `DT <- b` (R164) -/
def State.setDt (s : State) (b : Byte) : State := { s with dt := b }

/-- `ST <- b` (R165) -/
def State.setSt (s : State) (b : Byte) : State := { s with st := b }

/-- Phase 4, the timer tick (R96). -/
def State.tick (s : State) : State := { s with dt := decTimer s.dt, st := decTimer s.st }

/-! ## The random input (R32, R131) -/

/-- The random byte of this step and the state after it is sampled: the byte on the `rnd` port when the host presents one,
which is then consumed, else a free value of its own (R32, R195 (2); log 2). -/
def State.drawRnd (s : State) : Byte × State :=
  match s.rndIn with
  | some b => (b, { s with rndIn := none })
  | none => (Config.freeRnd s.rndDraws, { s with rndDraws := s.rndDraws + 1 })

/-! ## Taking a fault (R175, R176) -/

/-- Trap entry: set the fault latch, change nothing else (R176). There is no return from it: only reset clears the latch
(R178). Inside a step, `State.finish` applies it to the state the step began with, which undoes the advance of `pc` (R98,
R197; log 5, log 6). -/
def State.raise (s : State) (f : Fault) : State := { s with fault := some f }

/-- The numeric code of a fault (R170, D18; log 21). -/
def Fault.code : Fault → Nat
  | .stackOverflow => 1
  | .stackUnderflow => 2
  | .outOfBoundsAccess _ _ => 3
  | .keyIndexOutOfRange _ => 4

/-- The answer of one instruction or one step. -/
abbrev Result := Host.Outcome State Fault Refusal

/-- Run the rest of a handler unless its check, made first, found a fault (R9, R98, R179). -/
def State.checked (s : State) (f : Option Fault) (rest : State) : Result :=
  match f with
  | some f => .next (s.raise f)
  | none => .next rest

/-- The end of a step that began in `before`, on what the handler answered: when the handler raised a fault the state is the
one the step began with, with the fault latched and no tick (R98, R176); else the timers tick (R96). -/
def State.finish (before : State) : Result → Result
  | .next t =>
    match t.fault with
    | none => .next t.tick
    | some f => .next (before.raise f)
  | .fault f => .fault f
  | .refused r => .refused r

end Sys2Proof.Machine
end

