-- ==== Sys2Proof/Machine/Flags.lean ====
section
/-! DEFINITION. The flag computations: what an instruction writes to `VF` (spec/10_state.md R22, spec/42_alu.md R132). -/

namespace Sys2Proof.Machine

/-- A flag output is the byte 0x01 or 0x00 (R22). -/
def flagByte (c : Bool) : Byte := if c then 0x01 else 0x00

/-- `VF <- flag` (R22): an ordinary write of register 0xF. -/
def State.setFlag (s : State) (c : Bool) : State := s.setV Reg.flag (flagByte c)

/-- Carry out of `8xy4`: the 9-bit sum exceeds 255 (R126). -/
def carryOut (a b : Byte) : Bool := decide (255 < a.toNat + b.toNat)

/-- No borrow of `8xy5` and `8xy7`: minuend strictly greater than subtrahend, so equal operands report 0 (R127, R129). -/
def noBorrow (minuend subtrahend : Byte) : Bool := decide (subtrahend.toNat < minuend.toNat)

/-- The bit `8xy6` shifts out (R128). -/
def shiftedOutRight (a : Byte) : Bool := a.getLsbD 0

/-- The bit `8xyE` shifts out (R130). -/
def shiftedOutLeft (a : Byte) : Bool := a.getLsbD 7

/-- `VF <- VF OR c`: how `Dxyn` reports a collision (R151). -/
def State.orFlag (s : State) (c : Bool) : State := s.setV Reg.flag (s.getV Reg.flag ||| flagByte c)

end Sys2Proof.Machine
end

