-- ==== Sys2Proof/Machine/Alu.lean ====
section
/-! DEFINITION. Register and ALU instructions: `6xkk`, `7xkk`, `8xy0` to `8xy7`, `8xyE`, `Cxkk`
(spec/42_alu.md R120 to R133). Statements take effect in the order written, each reading the registers as the one before
left them (R9, R133; D10, log 7). -/

namespace Sys2Proof.Machine

/-- `6xkk` LD Vx, kk (R120) -/
def execLdImm (x : Reg) (kk : Byte) (s : State) : Result := .next (s.setV x kk)

/-- `7xkk` ADD Vx, kk (R121): no flag. -/
def execAddImm (x : Reg) (kk : Byte) (s : State) : Result := .next (s.setV x (s.getV x + kk))

/-- `8xy0` LD Vx, Vy (R122) -/
def execLdReg (x y : Reg) (s : State) : Result := .next (s.setV x (s.getV y))

/-- `8xy1` OR Vx, Vy (R123): `VF` is not touched. -/
def execOrReg (x y : Reg) (s : State) : Result := .next (s.setV x (s.getV x ||| s.getV y))

/-- `8xy2` AND Vx, Vy (R124): `VF` is not touched. -/
def execAndReg (x y : Reg) (s : State) : Result := .next (s.setV x (s.getV x &&& s.getV y))

/-- `8xy3` XOR Vx, Vy (R125): `VF` is not touched. -/
def execXorReg (x y : Reg) (s : State) : Result := .next (s.setV x (s.getV x ^^^ s.getV y))

/-- `8xy4` ADD Vx, Vy (R126): result, then flag. -/
def execAddReg (x y : Reg) (s : State) : Result :=
  let s1 := s.setV x (s.getV x + s.getV y)
  .next (s1.setFlag (carryOut (s.getV x) (s.getV y)))

/-- `8xy5` SUB Vx, Vy (R127): flag, then result from the registers as the flag write left them. -/
def execSubReg (x y : Reg) (s : State) : Result :=
  let s1 := s.setFlag (noBorrow (s.getV x) (s.getV y))
  .next (s1.setV x (s1.getV x - s1.getV y))

/-- `8xy6` SHR Vx (R128): flag, then result; `y` is ignored (R77). -/
def execShr (x : Reg) (s : State) : Result :=
  let s1 := s.setFlag (shiftedOutRight (s.getV x))
  .next (s1.setV x (s1.getV x >>> 1))

/-- `8xy7` SUBN Vx, Vy (R129): flag, then result from the registers as the flag write left them. -/
def execSubnReg (x y : Reg) (s : State) : Result :=
  let s1 := s.setFlag (noBorrow (s.getV y) (s.getV x))
  .next (s1.setV x (s1.getV y - s1.getV x))

/-- `8xyE` SHL Vx (R130): flag, then result; `y` is ignored (R77). -/
def execShl (x : Reg) (s : State) : Result :=
  let s1 := s.setFlag (shiftedOutLeft (s.getV x))
  .next (s1.setV x (s1.getV x <<< 1))

/-- `Cxkk` RND Vx, kk (R131): the random byte is sampled once (R32, log 2). -/
def execRnd (x : Reg) (kk : Byte) (s : State) : Result :=
  .next (s.drawRnd.2.setV x (s.drawRnd.1 &&& kk))

end Sys2Proof.Machine
end

