-- ==== Sys2Proof/Machine/Operands.lean ====
section
/-! DEFINITION. The operand forms: skips, addresses through `I`, register ranges, decimal digits, keys, sprite coordinates
(spec/41_control_flow.md R109, spec/43_index_memory.md R146, spec/44_display.md R151, spec/45_keys_timers.md). -/

namespace Sys2Proof.Machine

/-- A skip: `pc <- pc + 2` on the advanced `pc` when the condition holds (R109). -/
def State.skipIf (s : State) (c : Bool) : State := if c then s.advancePc else s

/-- The effective address `I + offset`, an exact integer (R56, R146). -/
def State.indexed (s : State) (offset : Nat) : Nat := s.i.toNat + offset

/-- The fault of an access to `count` bytes from `I`, if it has one (R173). -/
def State.indexFault (s : State) (count : Nat) (kind : AccessKind) : Option Fault :=
  accessFault (s.indexed 0) count kind

/-- The registers `V[0]` to `V[x]`, ascending (R144, R145). -/
def regsUpTo (x : Reg) : List Reg := (List.range (x.val + 1)).map (Fin.ofNat 16)

/-- The address of the glyph that `Fx29` selects: `FONT_BASE + 5 * V[x]`, on the whole byte (R142). -/
def glyphAddress (c : Config) (b : Byte) : Word := BitVec.ofNat 16 (c.fontBase.val + 5 * b.toNat)

/-- The hundreds digit of a byte (R143). -/
def hundredsDigit (b : Byte) : Byte := BitVec.ofNat 8 (b.toNat / 100)

/-- The tens digit of a byte (R143). -/
def tensDigit (b : Byte) : Byte := BitVec.ofNat 8 (b.toNat / 10 % 10)

/-- The ones digit of a byte (R143). -/
def onesDigit (b : Byte) : Byte := BitVec.ofNat 8 (b.toNat % 10)

/-- The fault of a key index above 15 (R160, R161, R174; D8, log 8). -/
def keyIndexFault (b : Byte) : Option Fault :=
  if 15 < b.toNat then some (.keyIndexOutOfRange b) else none

/-- `K[k]` (R30) -/
def State.keySet (s : State) (k : Nat) : Bool := s.k.getLsbD k

/-- The scan of `Fx0A`: keys 0 to 15 ascending, the last one set wins, none when no key is set (R162). -/
def State.scanKeys (s : State) : Option Nat :=
  (List.range 16).foldl (fun found k => if s.keySet k then some k else found) none

/-- The column of sprite bit `bit` for a sprite whose left edge is `b` (R151). -/
def columnOf (b : Byte) (bit : Nat) : Fin 64 := Fin.ofNat 64 (b.toNat + bit)

/-- The row of sprite row `row` for a sprite whose top edge is `b` (R151). -/
def rowOf (b : Byte) (row : Nat) : Fin 32 := Fin.ofNat 32 (b.toNat + row)

/-- Pixel `bit` of a sprite byte, most significant bit first: `b[7 - bit]` (R151). -/
def spriteBit (b : Byte) (bit : Nat) : Bool := b.getLsbD (7 - bit)

end Sys2Proof.Machine
end

