-- ==== Sys2Proof/Machine/ControlFlow.lean ====
section
/-! DEFINITION. Control transfer: `00EE`, `1nnn`, `2nnn`, `3xkk`, `4xkk`, `5xy0`, `9xy0`, `Bnnn`
(spec/41_control_flow.md R100 to R109). Every meaning of this model runs on the state whose `pc` is already advanced (R92, log 5). -/

namespace Sys2Proof.Machine

/-- `00EE` RET (R100) -/
def execRet (s : State) : Result :=
  match s.pop with
  | none => .next (s.raise .stackUnderflow)
  | some (target, s1) => .next (s1.jumpTo target)

/-- `1nnn` JP nnn (R101) -/
def execJp (nnn : Word) (s : State) : Result := .next (s.jumpTo nnn)

/-- `2nnn` CALL nnn (R102): what is pushed is the advanced `pc`. -/
def execCall (nnn : Word) (s : State) : Result :=
  match s.push s.pc with
  | none => .next (s.raise .stackOverflow)
  | some s1 => .next (s1.jumpTo nnn)

/-- `3xkk` SE Vx, kk (R103) -/
def execSeImm (x : Reg) (kk : Byte) (s : State) : Result := .next (s.skipIf (s.getV x == kk))

/-- `4xkk` SNE Vx, kk (R104) -/
def execSneImm (x : Reg) (kk : Byte) (s : State) : Result := .next (s.skipIf (s.getV x != kk))

/-- `5xy0` SE Vx, Vy (R105) -/
def execSeReg (x y : Reg) (s : State) : Result := .next (s.skipIf (s.getV x == s.getV y))

/-- `9xy0` SNE Vx, Vy (R106) -/
def execSneReg (x y : Reg) (s : State) : Result := .next (s.skipIf (s.getV x != s.getV y))

/-- `Bnnn` JP V0, nnn (R107): the offset register is always `V[0]`; the sum is not reduced modulo 4096. -/
def execJpV0 (nnn : Word) (s : State) : Result := .next (s.jumpTo (nnn + zext16 (s.getV 0)))

end Sys2Proof.Machine
end

