-- ==== Sys2Proof/Machine/Display.lean ====
section
/-! DEFINITION. Display instructions: `00E0`, `Dxyn` (spec/44_display.md R150 to R153). -/

namespace Sys2Proof.Machine

/-- `00E0` CLS (R150): `VF` is unchanged. -/
def execCls (s : State) : Result := .next s.clearFb

/-- One sprite bit that is 1, at `(cx, cy)`: report the collision, then XOR the pixel with 1 (R151). -/
def State.hitPixel (s : State) (cx : Fin 64) (cy : Fin 32) : State :=
  let s1 := s.orFlag (s.fb.pixel cx cy)
  { s1 with fb := s1.fb.toggle cx cy }

/-- One sprite bit: `V[x]` is read now (R151); a bit that is 0 changes no pixel and ORs 0 into `VF`. -/
def State.drawBit (x : Reg) (b : Byte) (cy : Fin 32) (s : State) (bit : Nat) : State :=
  if spriteBit b bit then s.hitPixel (columnOf (s.getV x) bit) cy else s

/-- One sprite row: `V[y]` is read now, then the eight bits, most significant first (R151). -/
def State.drawRow (x y : Reg) (s : State) (row : Nat) : State :=
  (List.range 8).foldl (State.drawBit x (s.readByte (s.indexed row)) (rowOf (s.getV y) row)) s

/-- The whole sprite: `VF` is cleared before any coordinate is read, then the rows, top first (R151; D10, log 7). -/
def State.drawSprite (s : State) (x y : Reg) (n : Nat) : State :=
  (List.range n).foldl (State.drawRow x y) (s.setFlag false)

/-- `Dxyn` DRW Vx, Vy, n (R151): the bounds of all `n` sprite bytes are checked first; `n = 0` reads none. -/
def execDrw (x y : Reg) (n : Nat) (s : State) : Result :=
  s.checked (s.indexFault n .sprite) (s.drawSprite x y n)

end Sys2Proof.Machine
end

