-- ==== Sys2Proof/Machine/IndexMemory.lean ====
section
/-! DEFINITION. Index register and memory instructions: `Annn`, `Fx1E`, `Fx29`, `Fx33`, `Fx55`, `Fx65`
(spec/43_index_memory.md R140 to R146). -/

namespace Sys2Proof.Machine

/-- `Annn` LD I, nnn (R140) -/
def execLdI (nnn : Word) (s : State) : Result := .next (s.setI nnn)

/-- `Fx1E` ADD I, Vx (R141): modulo 65536, no flag (D9, log 9). -/
def execAddI (x : Reg) (s : State) : Result := .next (s.setI (s.i + zext16 (s.getV x)))

/-- `Fx29` LD F, Vx (R142) -/
def execLdF (x : Reg) (s : State) : Result := .next (s.setI (glyphAddress s.cfg (s.getV x)))

/-- The three digits of a byte stored at `I`, `I + 1`, `I + 2` (R143). -/
def State.storeDigits (s : State) (b : Byte) : State :=
  s.writeBytes (s.indexed 0) [hundredsDigit b, tensDigit b, onesDigit b]

/-- `Fx33` LD B, Vx (R143): the bounds of all three bytes are checked first. -/
def execLdB (x : Reg) (s : State) : Result :=
  s.checked (s.indexFault 3 .bcd) (s.storeDigits (s.getV x))

/-- The byte `Fx55` stores for register `r` when its operand is `x`: `V[r]`, or `V[x]` for every slot when the instance has
`FX55_BUG_COMPAT` (R144, D11, C4; log 10). -/
def State.dumpByte (s : State) (x r : Reg) : Byte := if s.cfg.fx55BugCompat then s.getV x else s.getV r

/-- The registers `V[0]` to `V[x]` stored from `I` upward (R144). -/
def State.dumpRegs (s : State) (x : Reg) : State :=
  s.writeBytes (s.indexed 0) ((regsUpTo x).map (s.dumpByte x))

/-- `Fx55` LD [I], Vx (R144): the bounds of all `x + 1` bytes are checked first; `I` is unchanged. -/
def execLdMemVx (x : Reg) (s : State) : Result :=
  s.checked (s.indexFault (x.val + 1) .dump) (s.dumpRegs x)

/-- One register of the load: `V[r] <- MemRead(I + r, 1)` (R145). -/
def State.loadReg (s : State) (r : Reg) : State := s.setV r (s.readByte (s.indexed r.val))

/-- The registers `V[0]` to `V[x]` loaded from `I` upward (R145). -/
def State.loadRegs (s : State) (x : Reg) : State := (regsUpTo x).foldl State.loadReg s

/-- `Fx65` LD Vx, [I] (R145): the bounds of all `x + 1` bytes are checked first; `I` is unchanged. -/
def execLdVxMem (x : Reg) (s : State) : Result :=
  s.checked (s.indexFault (x.val + 1) .load) (s.loadRegs x)

end Sys2Proof.Machine
end

