-- ==== Sys2Proof/Machine/KeysTimers.lean ====
section
/-! DEFINITION. Key and timer instructions: `Ex9E`, `ExA1`, `Fx0A`, `Fx07`, `Fx15`, `Fx18`
(spec/45_keys_timers.md R160 to R166). -/

namespace Sys2Proof.Machine

/-- `Ex9E` SKP Vx (R160): the whole byte is the index; above 15 it faults (D8, log 8). -/
def execSkp (x : Reg) (s : State) : Result :=
  s.checked (keyIndexFault (s.getV x)) (s.skipIf (s.keySet (s.getV x).toNat))

/-- `ExA1` SKNP Vx (R161): the whole byte is the index; above 15 it faults (D8, log 8). -/
def execSknp (x : Reg) (s : State) : Result :=
  s.checked (keyIndexFault (s.getV x)) (s.skipIf (!s.keySet (s.getV x).toNat))

/-- `Fx0A` LD Vx, K (R162): with no key set, `pc` goes back to this instruction; the wait has no state of its own (R33). -/
def execLdVxK (x : Reg) (s : State) : Result :=
  match s.scanKeys with
  | some key => .next (s.setV x (BitVec.ofNat 8 key))
  | none => .next (s.jumpTo (s.pc - 2))

/-- `Fx07` LD Vx, DT (R163): the value before this step's tick. -/
def execLdVxDt (x : Reg) (s : State) : Result := .next (s.setV x s.dt)

/-- `Fx15` LD DT, Vx (R164): the tick of the same step acts on the new value. -/
def execLdDtVx (x : Reg) (s : State) : Result := .next (s.setDt (s.getV x))

/-- `Fx18` LD ST, Vx (R165): the tick of the same step acts on the new value. -/
def execLdStVx (x : Reg) (s : State) : Result := .next (s.setSt (s.getV x))

end Sys2Proof.Machine
end

