-- ==== Sys2Proof/Machine/Step.lean ====
section
/-! DEFINITION. One step: fetch, decode, execute, timer tick (spec/40_cycle_sequencer.md R90 to R99). -/

namespace Sys2Proof.Machine

/-- Phases 2 to 4 of a step that began in `s` and fetched `op`: the handler the word selects runs on the advanced `pc` and
the step ends; a word that selects none leaves the advance and the tick (R93 to R96, R98). -/
def runWord (s : State) (op : Word) : Result :=
  match decodeWord op with
  | some i => s.finish (exec i s.advancePc)
  | none => .next s.advancePc.tick

/-- One step (R90). With a fault latched it changes nothing (R97; D20, log 4); a fetch out of bounds latches its fault (R91,
R98). -/
def step (s : State) : Host.Outcome State Fault Refusal :=
  match s.fault with
  | some _ => .next s
  | none =>
    match s.fetch with
    | .error f => .next (s.raise f)
    | .ok op => runWord s op

/-- Where the next step fetches: `pc`, or the program's base when two bytes at `pc` are not both in memory. -/
def State.fetchablePc (s : State) : Word := if s.pc.toNat ≤ 0xFFE then s.pc else BitVec.ofNat 16 progBase

/-- The state in which the very next step fetches and runs the given instruction: its two bytes, high byte first, stand at
`pc`. Where `pc` cannot be fetched from it is moved to the program's base, and a latched fault is cleared, since a step
would fetch nothing otherwise (log 17). -/
def State.withFetchWord (s : State) (nbits w : Nat) : State :=
  ({ s with pc := s.fetchablePc, fault := none }).writeBytes s.fetchablePc.toNat (wordBytes (tableWord nbits w))

end Sys2Proof.Machine
end

