-- ==== Sys2Proof/Machine/Ports.lean ====
section
/-! DEFINITION. The host's side of the core: ports, launch, moves and views
(spec/60_exceptions.md R185, spec/70_reset_and_hazards.md R190 to R196, spec/10_state.md R37). The host acts only between
steps (R65); a host that breaks the rules has no move (D29; log 16, log 24). -/

namespace Sys2Proof.Machine

/-- The `keys` port: all 16 latch bits at once, between steps (R30, R185). -/
def State.writeKeys (s : State) (keys : Word) : State := { s with k := keys }

/-- The `rnd` port: the byte for the coming step (R32, R195 (2)). -/
def State.supplyRnd (s : State) (b : Byte) : State := { s with rndIn := some b }

/-- The byte on the `rnd` port is this step's only: it does not outlast the step (R31, R32). -/
def State.withdrawRnd (s : State) : State := { s with rndIn := none }

/-- What follows a step in a move. -/
def afterStep (f : State → State) : Result → Result
  | .next t => .next (f t)
  | .fault e => .fault e
  | .refused r => .refused r

/-- One move of the whole system, `step(keys, rnd)` of R196: write the latch, supply the random byte, step (R195 (1) to (3)). -/
def move (keys : Word) (b : Byte) (s : State) : Result :=
  afterStep State.withdrawRnd (step ((s.writeKeys keys).supplyRnd b))

/-- The moves of a host that presents the given inputs in turn. -/
def moves : List (Word × Byte) → State → Result
  | [], s => .next s
  | (keys, b) :: rest, s =>
    match move keys b s with
    | .next t => moves rest t
    | .fault e => .fault e
    | .refused r => .refused r

/-- Reset of a machine that may have run (R190): the complete initialization, Memory and latch included. The parameters are the
instance's; the counter of free random bytes goes on, so that no free value is drawn twice (log 18). -/
def State.resetNow (s : State) : State := { State.resetWith s.cfg with rndDraws := s.rndDraws }

/-- The largest program image, 0x200 to 0xFFF (R54). -/
def maxImage : Nat := 3584

/-- The launch state of a program image: the reset state with the image at 0x200; none for an image that does not fit
(R193, R194, U7). -/
def launch (c : Config) (image : List Byte) : Result :=
  if image.length ≤ maxImage then .next ((State.resetWith c).writeBytes progBase image)
  else .refused (.imageTooLong image.length)

/-- May the host still load (R65 (b))? -/
inductive Phase where
  /-- between reset and the first step -/
  | loading
  /-- after the first step -/
  | running
  deriving DecidableEq, Repr

/-- The core and how far its host has come. -/
structure System where
  core : State
  phase : Phase
  deriving DecidableEq, Repr

/-- The host's moves (R185, R195). -/
inductive HostEvent where
  /-- the `reset` port -/
  | reset
  /-- the `load(addr, byte)` port -/
  | load (addr : Nat) (b : Byte)
  /-- one pass of the host loop: latch, random byte, step -/
  | tick (keys : Word) (b : Byte)
  deriving DecidableEq, Repr

/-- What the system answers to one host move. -/
def System.handle (sys : System) : HostEvent → Host.Outcome System Fault Refusal
  | .reset => .next ⟨sys.core.resetNow, .loading⟩
  | .load addr b =>
    match sys.phase with
    | .running => .refused .loadAfterFirstStep
    | .loading =>
      if progBase ≤ addr ∧ addr < memSize then .next ⟨sys.core.writeByte addr b, .loading⟩
      else .refused (.loadOutsideProgramArea addr)
  | .tick keys b =>
    match move keys b sys.core with
    | .next t => .next ⟨t, .running⟩
    | .fault e => .fault e
    | .refused r => .refused r

/-- The system after power-on. -/
def System.powerOn (c : Config) : System := ⟨State.resetWith c, .loading⟩

/-- Everything the host can read (R37): the framebuffer, the timers and the fault latch. -/
structure HostView where
  fb : Framebuffer
  dt : Byte
  st : Byte
  fault : Option Fault
  deriving DecidableEq, Repr

/-- The views are reads of the state between steps, without side effect (R37). -/
def State.view (s : State) : HostView := ⟨s.fb, s.dt, s.st, s.fault⟩

/-- Bit `j` of the 2048-bit `fb` port: pixel `(cx, cy)` is bit `cy * 64 + cx` (R153, R185; D17, log 15). -/
def Framebuffer.portBit (fb : Framebuffer) (j : Nat) : Bool :=
  fb.pixel (Fin.ofNat 64 (j % 64)) (Fin.ofNat 32 (j / 64))

/-- The sound is on exactly when `ST > 0` (R165). -/
def HostView.soundOn (w : HostView) : Bool := decide (0 < w.st.toNat)

end Sys2Proof.Machine
end

