-- ==== Sys2Proof/Safety.lean ====
section
/-! DEFINITION. What counts as a safe run, when a program has finished, and the invariant of the machine
(spec/60_exceptions.md R177, spec/70_reset_and_hazards.md R205, spec/10_state.md R25 to R27). -/

namespace Sys2Proof.Machine

/-- FAULTED: the latch is set (R177). -/
def State.faulted (s : State) : Bool := s.fault.isSome

/-- A state of a run that has not gone wrong (R177). -/
def State.safe (s : State) : Bool := s.fault.isNone

/-- The end-of-run convention of R205: `pc = here`, no fault, and the word at `here` is the self-jump `0x1000 | here`. D25,
log 26. -/
def State.finishedAt (s : State) (here : Word) : Bool :=
  decide (s.pc = here) && decide (here.toNat ≤ 0xFFE) && s.safe &&
    decide (s.wordAt here.toNat = 0x1000 ||| here)

/-- The information a fault records lies in the range R170 gives it. -/
def Fault.wf : Fault → Bool
  | .stackOverflow => true
  | .stackUnderflow => true
  | .outOfBoundsAccess addr _ => decide (memSize ≤ addr) && decide (addr ≤ 0xFFFF)
  | .keyIndexOutOfRange value => decide (15 < value.toNat)

/-- Every pushed return address is at most 0x1000 (R100, R102). -/
def State.stackWf (s : State) : Prop := ∀ j : Fin 16, j.val < s.sp.val → s.stk[j].toNat ≤ 0x1000

/-- The invariant: memory in canonical form and inside the array (R50), `pc` at most 0x10FE (R25), pushed return addresses at
most 0x1000 (R100), and a latched fault recorded in its range (R170). The ranges of `sp`, registers and timers are in the types. -/
structure State.Inv (s : State) : Prop where
  memory : Memory.wf s.cfg s.mem = true
  pcBound : s.pc.toNat ≤ 0x10FE
  stack : s.stackWf
  faultInfo : ∀ f, s.fault = some f → Fault.wf f = true

end Sys2Proof.Machine
end

