-- ==== Sys2Proof/Certificates/Slice0/Obligations.lean ====
section
/-! DEFINITION. The statements for the provers. `exec` runs on the state whose `pc` the fetch has already advanced (log 5), so
in a statement about `exec`, `s.pc` is the address of the next sequential instruction. -/

open Sys2Proof Sys2Proof.Machine

/-! ## Frames: what may differ between the state before and the state after -/

/-- Every address of memory reads as before. -/
def Sys2Proof.Machine.SameMemory (s t : State) : Prop := ∀ p, t.readByte p = s.readByte p

/-- Only general registers may differ. -/
def Sys2Proof.Machine.RegistersOnly (s t : State) : Prop := t = { s with v := t.v } ∧ SameMemory s t

/-- Only register `x` may differ. -/
def Sys2Proof.Machine.OnlyRegister (s t : State) (x : Reg) : Prop :=
  (∀ r, r ≠ x → t.getV r = s.getV r) ∧ RegistersOnly s t

/-- Only register `x` and the flag register may differ. -/
def Sys2Proof.Machine.OnlyRegisterAndFlag (s t : State) (x : Reg) : Prop :=
  (∀ r, r ≠ x → r ≠ Reg.flag → t.getV r = s.getV r) ∧ RegistersOnly s t

/-- Only `pc` may differ. -/
def Sys2Proof.Machine.PcOnly (s t : State) : Prop := t = { s with pc := t.pc } ∧ SameMemory s t

/-- Only `I` may differ. -/
def Sys2Proof.Machine.IndexOnly (s t : State) : Prop := t = { s with i := t.i } ∧ SameMemory s t

/-- Only the `count` bytes of memory from `base` may differ. -/
def Sys2Proof.Machine.BytesOnly (s t : State) (base count : Nat) : Prop :=
  t = { s with mem := t.mem } ∧ ∀ p, ¬ (base ≤ p ∧ p < base + count) → t.readByte p = s.readByte p

/-- Only the framebuffer and the flag register may differ. -/
def Sys2Proof.Machine.ScreenAndFlagOnly (s t : State) : Prop :=
  t = { s with v := t.v, fb := t.fb } ∧ (∀ r, r ≠ Reg.flag → t.getV r = s.getV r) ∧ SameMemory s t

/-- The instruction the next step of `s` executes, if it executes one. -/
def Sys2Proof.Machine.State.current (s : State) : Option Instr :=
  if s.fault = none ∧ s.pc.toNat ≤ 0xFFE then decodeWord (s.wordAt s.pc.toNat) else none

/-! ## Encoding and decoding -/

/-- Decoding the encoding of a well-formed instruction gives it back, as a word and as bytes followed by any bytes. -/
def Obligations.DecodeOfEncodeIsIdentity : Prop :=
  ∀ (i : Instr) (rest : List Byte), i.wf = true →
    decodeWord (encode i) = some i ∧ decode (encodeBytes i ++ rest) = .ok (i, rest)

/-- What the decoder reads is well formed, and its encoding is the word it was read from. -/
def Obligations.DecodedWordIsWellFormedAndReencodes : Prop :=
  ∀ (op : Word) (i : Instr), decodeWord op = some i → i.wf = true ∧ encode i = op

/-- The decoder and the opcode map of R74 agree: a word decodes to an instruction of row `r` exactly when `op AND mask = match`
for that row, and at most one row matches (R76). -/
def Obligations.DecoderAgreesWithOpcodeMap : Prop :=
  ∀ op : Word,
    (∀ r ∈ opcodeRows, (r.selects op = true ↔ ∃ i, decodeWord op = some i ∧ i.mnemonic = r.mnemonic)) ∧
    (decodeWord op = none ↔ ∀ r ∈ opcodeRows, r.selects op = false) ∧
    (∀ r ∈ opcodeRows, ∀ q ∈ opcodeRows, r.selects op = true → q.selects op = true → r = q)

/-- The unmatched words are exactly the six groups of R79. -/
def Obligations.UnmatchedWordsAreTheListedGroups : Prop :=
  ∀ op : Word, decodeWord op = none ↔
    (nibble1 op = 0x0 ∧ op ≠ 0x00E0 ∧ op ≠ 0x00EE) ∨
    (nibble1 op = 0x5 ∧ nibble4 op ≠ 0) ∨
    (nibble1 op = 0x8 ∧ nibble4 op ∈ [0x8, 0x9, 0xA, 0xB, 0xC, 0xD, 0xF]) ∨
    (nibble1 op = 0x9 ∧ nibble4 op ≠ 0) ∨
    (nibble1 op = 0xE ∧ fieldKk op ≠ 0x9E ∧ fieldKk op ≠ 0xA1) ∨
    (nibble1 op = 0xF ∧ fieldKk op ∉ [0x07, 0x0A, 0x15, 0x18, 0x1E, 0x29, 0x33, 0x55, 0x65])

/-- One word of each format, and one of each E and F group, written out from R74. -/
def Obligations.SampleWordsDecodeAsTheTableSays : Prop :=
  decodeWord 0x00EE = some .ret ∧ decodeWord 0x1ABC = some (.jp 0x0ABC) ∧
  decodeWord 0x6A2B = some (.ldImm 0xA 0x2B) ∧ decodeWord 0x812E = some (.shl 1 2) ∧
  decodeWord 0xDAB5 = some (.drw 0xA 0xB 5) ∧ decodeWord 0xE1A1 = some (.sknp 1) ∧
  decodeWord 0xF365 = some (.ldVxMem 3)

/-- The instruction placed by `withFetchWord` is what the next step fetches, from every state. -/
def Obligations.PlacedWordIsFetchedNext : Prop :=
  ∀ (s : State) (w : Nat), w < 65536 →
    (s.withFetchWord 16 w).fetch = .ok (BitVec.ofNat 16 w) ∧ (s.withFetchWord 16 w).fault = none

/-! ## The step -/

/-- A step at a `pc` whose two bytes decode to `i` is `exec` of `i` on the advanced `pc`; then the timers tick, or, when the
handler raised a fault, the state the step began with gets the latch and nothing else. -/
def Obligations.StepRunsDecodedInstruction : Prop :=
  ∀ (s : State) (i : Instr), s.fault = none → s.pc.toNat ≤ 0xFFE →
    decode [s.readByte s.pc.toNat, s.readByte (s.pc.toNat + 1)] = .ok (i, []) →
    (∀ t, exec i s.advancePc = .next t → t.fault = none → step s = .next t.tick) ∧
    (∀ t f, exec i s.advancePc = .next t → t.fault = some f → step s = .next (s.raise f))

/-- R95: a word that selects no handler advances `pc` by 2, ticks the timers and changes nothing else. -/
def Obligations.UnmatchedWordIsNoOp : Prop :=
  ∀ s : State, s.fault = none → s.pc.toNat ≤ 0xFFE → decodeWord (s.wordAt s.pc.toNat) = none →
    ∃ t, step s = .next t ∧ t.pc.toNat = s.pc.toNat + 2 ∧ t.dt.toNat = s.dt.toNat - 1 ∧
      t.st.toNat = s.st.toNat - 1 ∧ t = { s with pc := t.pc, dt := t.dt, st := t.st } ∧ SameMemory s t

/-- Every step of every state answers a next state. -/
def Obligations.StepAlwaysAnswersNext : Prop := ∀ s : State, ∃ t, step s = .next t

/-- R25: where each completed step leaves `pc`, `a` being the address the instruction was fetched from. -/
def Obligations.PcAfterCompletedStep : Prop :=
  ∀ (s t : State) (i : Instr), s.current = some i → step s = .next t → t.fault = none →
    match i with
    | .jp nnn => t.pc = nnn
    | .call nnn => t.pc = nnn
    | .ret => ∀ j : Fin 16, j.val + 1 = s.sp.val → t.pc = s.stk[j]
    | .jpV0 nnn => t.pc.toNat = nnn.toNat + (s.getV 0).toNat
    | .seImm x kk => t.pc.toNat = s.pc.toNat + if s.getV x = kk then 4 else 2
    | .sneImm x kk => t.pc.toNat = s.pc.toNat + if s.getV x = kk then 2 else 4
    | .seReg x y => t.pc.toNat = s.pc.toNat + if s.getV x = s.getV y then 4 else 2
    | .sneReg x y => t.pc.toNat = s.pc.toNat + if s.getV x = s.getV y then 2 else 4
    | .skp x => t.pc.toNat = s.pc.toNat + if s.keySet (s.getV x).toNat then 4 else 2
    | .sknp x => t.pc.toNat = s.pc.toNat + if s.keySet (s.getV x).toNat then 2 else 4
    | .ldVxK _ => ((∃ j < 16, s.keySet j = true) → t.pc.toNat = s.pc.toNat + 2) ∧
        ((∀ j < 16, s.keySet j = false) → t.pc = s.pc)
    | _ => t.pc.toNat = s.pc.toNat + 2

/-- R96: in every step that completes, the no-op step and the waiting step included, each timer ends one below the value the
handler left, or at zero; `Fx07` copies the value before the tick. A step that faults, and a step of a faulted machine, ticks
nothing: these two clauses are the spec's decisions D2 (log 6) and D20 (log 4). -/
def Obligations.TimersTickInEveryCompletedStep : Prop :=
  ∀ s t : State, step s = .next t →
    (t.fault = none →
      (∀ x, s.current = some (.ldDtVx x) → t.dt.toNat = (s.getV x).toNat - 1) ∧
      ((∀ x, s.current ≠ some (.ldDtVx x)) → t.dt.toNat = s.dt.toNat - 1) ∧
      (∀ x, s.current = some (.ldStVx x) → t.st.toNat = (s.getV x).toNat - 1) ∧
      ((∀ x, s.current ≠ some (.ldStVx x)) → t.st.toNat = s.st.toNat - 1) ∧
      (∀ x, s.current = some (.ldVxDt x) → t.getV x = s.dt)) ∧
    (t.fault ≠ none → t.dt = s.dt ∧ t.st = s.st)

/-! ## Reset and invariants -/

/-- R192: after reset the 80 bytes at `FONT_BASE` hold `FONT_GLYPHS` and every other byte is 0x00, whatever the parameters. -/
def Obligations.ResetMemoryHoldsTheFont : Prop :=
  ∀ c : Config,
    (∀ (d : Fin 16) (r : Fin 5),
      (State.resetWith c).readByte (c.fontBase.val + 5 * d.val + r.val) = c.fontGlyphs[d][r]) ∧
    (∀ a, a < c.fontBase.val ∨ c.fontBase.val + 80 ≤ a → (State.resetWith c).readByte a = 0x00)

/-- The values of R38 of all the state but memory: `pc` and the framebuffer from the source, the zeros and the empty latch by the
spec's decision D5 (log 3). -/
structure Sys2Proof.Machine.State.HasResetValues (t : State) : Prop where
  pc : t.pc = 0x200
  screen : ∀ cx cy, t.fb.pixel cx cy = false
  registers : ∀ r, t.getV r = 0
  index : t.i = 0
  stackPointer : t.sp.val = 0
  stack : ∀ j : Fin 16, t.stk[j] = 0
  timers : t.dt = 0 ∧ t.st = 0
  keys : ∀ key, t.keySet key = false
  fault : t.fault = none

/-- R38: a machine created by reset has the reset values, and so has, whatever its state was, a faulted one included, a machine
whose host asserts the `reset` port (one complete reset: the spec's decision D16, log 18): every byte reads as its reset content,
the parameters stay, the latch is clear and the host may load again. -/
def Obligations.ResetRegistersAndScreen : Prop :=
  (∀ c : Config, (State.resetWith c).HasResetValues) ∧ State.reset = State.resetWith Config.default ∧
  (∀ sys : System, ∃ t, sys.handle .reset = .next t ∧ t.core.HasResetValues ∧ t.core.cfg = sys.core.cfg ∧
    (∀ a, t.core.readByte a = (State.resetWith sys.core.cfg).readByte a) ∧ t.core.mem = [] ∧
    t.core.rndIn = none ∧ t.phase = .loading)

/-- The invariant holds after reset, for every choice of the parameters. -/
def Obligations.ResetSatisfiesInvariant : Prop := ∀ c : Config, (State.resetWith c).Inv

/-- Every step keeps the invariant: memory canonical and inside the array, `pc` at most 0x10FE (R25), pushed addresses at most
0x1000 (R100), a latched fault recorded in its range (R170). -/
def Obligations.StepKeepsInvariant : Prop := ∀ s t : State, s.Inv → step s = .next t → t.Inv

/-- Canonical memories that read the same everywhere are the same list (log 14). -/
def Obligations.CanonicalMemoriesReadingAlikeAreEqual : Prop :=
  ∀ (c : Config) (m n : Memory), Memory.wf c m = true → Memory.wf c n = true →
    (∀ a, Memory.read c m a = Memory.read c n a) → m = n

/-! ## Register and ALU instructions -/

/-- R120 -/
def Obligations.LoadImmediateSetsRegister : Prop :=
  ∀ (s : State) (x : Reg) (kk : Byte), ∃ t, exec (.ldImm x kk) s = .next t ∧ t.getV x = kk ∧ OnlyRegister s t x

/-- R121: no flag output; `VF` changes only when it is the destination. -/
def Obligations.AddImmediateWrapsWithoutFlag : Prop :=
  ∀ (s : State) (x : Reg) (kk : Byte), ∃ t, exec (.addImm x kk) s = .next t ∧
    (t.getV x).toNat = ((s.getV x).toNat + kk.toNat) % 256 ∧ OnlyRegister s t x

/-- R122 to R125: copy and the bitwise operations, bit by bit; `VF` is not a flag output. -/
def Obligations.CopyAndBitwiseOperations : Prop :=
  ∀ (s : State) (x y : Reg),
    (∃ t, exec (.ldReg x y) s = .next t ∧ t.getV x = s.getV y ∧ OnlyRegister s t x) ∧
    (∃ t, exec (.orReg x y) s = .next t ∧ OnlyRegister s t x ∧
      ∀ j < 8, (t.getV x).getLsbD j = ((s.getV x).getLsbD j || (s.getV y).getLsbD j)) ∧
    (∃ t, exec (.andReg x y) s = .next t ∧ OnlyRegister s t x ∧
      ∀ j < 8, (t.getV x).getLsbD j = ((s.getV x).getLsbD j && (s.getV y).getLsbD j)) ∧
    (∃ t, exec (.xorReg x y) s = .next t ∧ OnlyRegister s t x ∧
      ∀ j < 8, (t.getV x).getLsbD j = ((s.getV x).getLsbD j ^^ (s.getV y).getLsbD j))

/-- `8xy4`: the carry always ends in `VF`; the sum is in `V[x]` unless `x` is the flag register, where the flag overwrites it
(the order is the spec's decision D10, log 7). -/
def Obligations.AddRegistersWithCarry : Prop :=
  ∀ (s : State) (x y : Reg), ∃ t, exec (.addReg x y) s = .next t ∧
    (t.getV Reg.flag).toNat = (if 255 < (s.getV x).toNat + (s.getV y).toNat then 1 else 0) ∧
    (x ≠ Reg.flag → (t.getV x).toNat = ((s.getV x).toNat + (s.getV y).toNat) % 256) ∧
    OnlyRegisterAndFlag s t x

/-- `8xy5` and `8xy7`: strict no-borrow flag first, then the result from the registers as the flag write left them, in all four
cases of which operand is the flag register (the order is the spec's decision D10, log 7). -/
def Obligations.SubtractWithStrictNoBorrow : Prop :=
  ∀ (s : State) (x y : Reg),
    (∃ t, exec (.subReg x y) s = .next t ∧ OnlyRegisterAndFlag s t x ∧
      ∀ f : Nat, f = (if (s.getV y).toNat < (s.getV x).toNat then 1 else 0) →
        (x ≠ Reg.flag → (t.getV Reg.flag).toNat = f) ∧
        (x ≠ Reg.flag → y ≠ Reg.flag → (t.getV x).toNat = (256 + (s.getV x).toNat - (s.getV y).toNat) % 256) ∧
        (x ≠ Reg.flag → y = Reg.flag → (t.getV x).toNat = (256 + (s.getV x).toNat - f) % 256) ∧
        (x = Reg.flag → y ≠ Reg.flag → (t.getV x).toNat = (256 + f - (s.getV y).toNat) % 256) ∧
        (x = Reg.flag → y = Reg.flag → (t.getV x).toNat = 0)) ∧
    (∃ t, exec (.subnReg x y) s = .next t ∧ OnlyRegisterAndFlag s t x ∧
      ∀ f : Nat, f = (if (s.getV x).toNat < (s.getV y).toNat then 1 else 0) →
        (x ≠ Reg.flag → (t.getV Reg.flag).toNat = f) ∧
        (x ≠ Reg.flag → y ≠ Reg.flag → (t.getV x).toNat = (256 + (s.getV y).toNat - (s.getV x).toNat) % 256) ∧
        (x ≠ Reg.flag → y = Reg.flag → (t.getV x).toNat = (256 + f - (s.getV x).toNat) % 256) ∧
        (x = Reg.flag → y ≠ Reg.flag → (t.getV x).toNat = (256 + (s.getV y).toNat - f) % 256) ∧
        (x = Reg.flag → y = Reg.flag → (t.getV x).toNat = 0))

/-- `8xy6` and `8xyE`: one bit, filled with 0, the bit that leaves in `VF`; `y` is ignored; with the flag register as operand
the flag just written is shifted (the order is the spec's decision D10, log 7). -/
def Obligations.ShiftsByOneWithShiftedOutFlag : Prop :=
  ∀ (s : State) (x y : Reg),
    (∃ t, exec (.shr x y) s = .next t ∧ OnlyRegisterAndFlag s t x ∧
      (x ≠ Reg.flag → (t.getV x).toNat = (s.getV x).toNat / 2 ∧ (t.getV Reg.flag).toNat = (s.getV x).toNat % 2) ∧
      (x = Reg.flag → (t.getV x).toNat = 0)) ∧
    (∃ t, exec (.shl x y) s = .next t ∧ OnlyRegisterAndFlag s t x ∧
      (x ≠ Reg.flag → (t.getV x).toNat = 2 * (s.getV x).toNat % 256 ∧
        (t.getV Reg.flag).toNat = (s.getV x).toNat / 128) ∧
      (x = Reg.flag → (t.getV x).toNat = 2 * ((s.getV x).toNat / 128)))

/-- `Cxkk`: some byte is drawn, the host's when it presents one and else a fresh free value (log 2), and `V[x]` is that byte
AND `kk`. -/
def Obligations.RandomByteIsMasked : Prop :=
  ∀ (s : State) (x : Reg) (kk : Byte), ∃ b t, exec (.rnd x kk) s = .next t ∧ t.getV x = b &&& kk ∧
    (∀ r, r ≠ x → t.getV r = s.getV r) ∧ (∀ p, s.rndIn = some p → b = p ∧ t.rndDraws = s.rndDraws) ∧
    (s.rndIn = none → b = Config.freeRnd s.rndDraws ∧ t.rndDraws = s.rndDraws + 1) ∧
    t = { s with v := t.v, rndIn := none, rndDraws := t.rndDraws } ∧ SameMemory s t

/-- R131: in a move of the whole system, `V[x]` ends as the byte the host supplied AND `kk`, for every one of the 256 bytes; no
other register changes. -/
def Obligations.RandomMoveUsesTheSuppliedByte : Prop :=
  ∀ (s : State) (keys : Word) (b : Byte) (x : Reg) (kk : Byte), s.current = some (.rnd x kk) →
    ∃ t, move keys b s = .next t ∧ t.getV x = b &&& kk ∧ (∀ r, r ≠ x → t.getV r = s.getV r) ∧
      t = { s with v := t.v, pc := s.pc + 2, dt := t.dt, st := t.st, k := keys, rndIn := none } ∧ SameMemory s t

/-! ## Control transfer -/

/-- R101: `pc` becomes `nnn`; with `nnn = 0xFFF` the next fetch faults, at address 0x1000 (the recorded address and kind are those
of R91 with the spec's decisions D14 and D18, log 12, log 21). In a whole step the timers tick (R96) and nothing else changes. -/
def Obligations.JumpSetsPc : Prop :=
  ∀ (s : State) (nnn : Word),
    (∃ t, exec (.jp nnn) s = .next t ∧ t.pc = nnn ∧ PcOnly s t ∧
      (nnn = 0xFFF → t.fetch = .error (.outOfBoundsAccess 0x1000 .fetch))) ∧
    (s.fault = none → s.pc.toNat ≤ 0xFFE → nnn.toNat < 4096 → s.wordAt s.pc.toNat = 0x1000 ||| nnn →
      ∃ t, step s = .next t ∧ t.pc = nnn ∧ t.dt.toNat = s.dt.toNat - 1 ∧ t.st.toNat = s.st.toNat - 1 ∧
        t = { s with pc := t.pc, dt := t.dt, st := t.st } ∧ SameMemory s t)

/-- `Bnnn`: the exact sum of the 12-bit `nnn` and `V[0]`, never reduced (`pc` is 16 bits wide by the spec's decision D3, log 11). -/
def Obligations.ComputedJumpAddsV0 : Prop :=
  ∀ (s : State) (nnn : Word), nnn.toNat < 4096 → ∃ t, exec (.jpV0 nnn) s = .next t ∧
    t.pc.toNat = nnn.toNat + (s.getV 0).toNat ∧ PcOnly s t

/-- R103 to R106: the register skips add 2 to the advanced `pc` exactly when their condition holds; `5xyN` and `9xyN` with `N`
not 0 are unmatched. -/
def Obligations.RegisterSkipsAddTwoWhenTrue : Prop :=
  ∀ (s : State) (x y : Reg) (kk : Byte),
    (∃ t, exec (.seImm x kk) s = .next t ∧ (s.getV x = kk → t.pc = s.pc + 2) ∧
      (s.getV x ≠ kk → t.pc = s.pc) ∧ PcOnly s t) ∧
    (∃ t, exec (.sneImm x kk) s = .next t ∧ (s.getV x ≠ kk → t.pc = s.pc + 2) ∧
      (s.getV x = kk → t.pc = s.pc) ∧ PcOnly s t) ∧
    (∃ t, exec (.seReg x y) s = .next t ∧ (s.getV x = s.getV y → t.pc = s.pc + 2) ∧
      (s.getV x ≠ s.getV y → t.pc = s.pc) ∧ PcOnly s t) ∧
    (∃ t, exec (.sneReg x y) s = .next t ∧ (s.getV x ≠ s.getV y → t.pc = s.pc + 2) ∧
      (s.getV x = s.getV y → t.pc = s.pc) ∧ PcOnly s t) ∧
    (∀ n : BitVec 4, n ≠ 0 → decodeWord (formatXy 0x5 x y n) = none ∧ decodeWord (formatXy 0x9 x y n) = none)

/-- `2nnn` with a free entry: the advanced `pc` goes to `STK[sp]`, `sp` rises by one, `pc` becomes `nnn`; no other entry, register
or byte changes. -/
def Obligations.CallPushesReturnAddress : Prop :=
  ∀ (s : State) (nnn : Word), s.sp.val < 16 → ∃ t, exec (.call nnn) s = .next t ∧ t.pc = nnn ∧
    t.sp.val = s.sp.val + 1 ∧ (∀ j : Fin 16, t.stk[j] = if j.val = s.sp.val then s.pc else s.stk[j]) ∧
    t = { s with pc := t.pc, sp := t.sp, stk := t.stk } ∧ SameMemory s t

/-- `00EE` with a non-empty stack: `sp` falls by one and `pc` becomes the entry at the new `sp`, which keeps its value (D23, log 22). -/
def Obligations.ReturnPopsReturnAddress : Prop :=
  ∀ s : State, 0 < s.sp.val → ∃ t, exec .ret s = .next t ∧ t.sp.val + 1 = s.sp.val ∧
    (∀ j : Fin 16, j.val = t.sp.val → t.pc = s.stk[j]) ∧ t = { s with pc := t.pc, sp := t.sp } ∧ SameMemory s t

/-- A call followed at once by a return comes back to the instruction after the call, with the stack pointer as before. -/
def Obligations.CallThenReturnComesBack : Prop :=
  ∀ (s : State) (nnn : Word), s.sp.val < 16 → ∃ t u, exec (.call nnn) s = .next t ∧
    exec .ret t.advancePc = .next u ∧ u.pc = s.pc ∧ u.sp = s.sp ∧ u = { s with stk := u.stk } ∧ SameMemory s u

/-! ## Index register and memory -/

/-- R140 and R142: `Annn` loads the address operand; `Fx29` loads `FONT_BASE + 5 * V[x]` from the whole byte, exactly, which for
a hex digit is where the preloaded font holds that digit's glyph. -/
def Obligations.IndexLoadsAddressOrGlyph : Prop :=
  ∀ (s : State) (nnn : Word) (x : Reg),
    (∃ t, exec (.ldI nnn) s = .next t ∧ t.i = nnn ∧ IndexOnly s t) ∧
    (∃ t, exec (.ldF x) s = .next t ∧ t.i.toNat = s.cfg.fontBase.val + 5 * (s.getV x).toNat ∧ IndexOnly s t ∧
      ∀ d : Fin 16, (s.getV x).toNat = d.val → ∀ r : Fin 5,
        (State.resetWith s.cfg).readByte (t.i.toNat + r.val) = s.cfg.fontGlyphs[d][r])

/-- `Fx1E`: the sum modulo 65536, held even above 0xFFF, with no flag (the wrap is the spec's decision D9, log 9). -/
def Obligations.AddToIndexWrapsWithoutFlag : Prop :=
  ∀ (s : State) (x : Reg), ∃ t, exec (.addI x) s = .next t ∧
    t.i.toNat = (s.i.toNat + (s.getV x).toNat) % 65536 ∧ IndexOnly s t

/-- `Fx33` with its three bytes in memory: the decimal digits at `I`, `I + 1`, `I + 2`, and no other byte changes. -/
def Obligations.DecimalDigitsAreStored : Prop :=
  ∀ (s : State) (x : Reg), s.indexed 2 ≤ 0xFFF → ∃ t, exec (.ldB x) s = .next t ∧
    (t.readByte (s.indexed 0)).toNat = (s.getV x).toNat / 100 ∧
    (t.readByte (s.indexed 1)).toNat = (s.getV x).toNat / 10 % 10 ∧
    (t.readByte (s.indexed 2)).toNat = (s.getV x).toNat % 10 ∧ BytesOnly s t (s.indexed 0) 3

/-- `Fx55` with its `x + 1` bytes in memory: `V[r]` at `I + r` for every `r` up to `x`, or `V[x]` in every slot when the instance
has `FX55_BUG_COMPAT` (D11, log 10); `I`, the registers and every other byte are unchanged. -/
def Obligations.RegistersAreDumped : Prop :=
  ∀ (s : State) (x : Reg), s.indexed x.val ≤ 0xFFF → ∃ t, exec (.ldMemVx x) s = .next t ∧
    (∀ r : Reg, r ≤ x → t.readByte (s.indexed r.val) = if s.cfg.fx55BugCompat then s.getV x else s.getV r) ∧
    BytesOnly s t (s.indexed 0) (x.val + 1)

/-- `Fx65` with its `x + 1` bytes in memory: `V[r]` from `I + r` for every `r` up to `x`; the registers above `x` and all else
are unchanged. -/
def Obligations.RegistersAreLoaded : Prop :=
  ∀ (s : State) (x : Reg), s.indexed x.val ≤ 0xFFF → ∃ t, exec (.ldVxMem x) s = .next t ∧
    (∀ r : Reg, r ≤ x → t.getV r = s.readByte (s.indexed r.val)) ∧
    (∀ r : Reg, x < r → t.getV r = s.getV r) ∧ RegistersOnly s t

/-- A load after a normative dump at the same place gives back the dumped registers, whatever the registers held in between. -/
def Obligations.LoadAfterDumpRestoresRegisters : Prop :=
  ∀ (s : State) (x : Reg) (w : Vector Byte 16), s.indexed x.val ≤ 0xFFF → s.cfg.fx55BugCompat = false →
    ∃ t u, exec (.ldMemVx x) s = .next t ∧ exec (.ldVxMem x) { t with v := w } = .next u ∧
      (∀ r : Reg, r ≤ x → u.getV r = s.getV r) ∧ (∀ r : Reg, x < r → u.getV r = w[r])

/-- A dump is seen by the very next fetch: two dumped bytes compose, big-endian, to the word fetched at `I`. -/
def Obligations.StoredCodeIsFetchedNext : Prop :=
  ∀ (s : State) (x : Reg), 0 < x.val → s.indexed x.val ≤ 0xFFF → s.cfg.fx55BugCompat = false →
    ∃ t, exec (.ldMemVx x) s = .next t ∧ (t.jumpTo t.i).fetch = .ok (composeWord (s.getV 0) (s.getV 1))

/-! ## Display -/

/-- R150: every pixel is 0 and nothing else changes, `VF` included. -/
def Obligations.ClearScreenClearsEveryPixel : Prop :=
  ∀ s : State, ∃ t, exec .cls s = .next t ∧ (∀ cx cy, t.fb.pixel cx cy = false) ∧
    t = { s with fb := t.fb } ∧ SameMemory s t

/-- The sprite of `n` rows at `I`, placed with its left edge at `x0` and its top edge at `y0` on the 64 by 32 torus, has a 1 at
`(cx, cy)` (R151, R152). -/
def Sys2Proof.Machine.SpriteCovers (s : State) (x0 y0 n : Nat) (cx : Fin 64) (cy : Fin 32) : Prop :=
  ∃ row < n, ∃ bit < 8, (x0 + bit) % 64 = cx.val ∧ (y0 + row) % 32 = cy.val ∧
    (s.readByte (s.i.toNat + row)).getLsbD (7 - bit) = true

/-- `Dxyn` with ordinary coordinate registers is the pixelwise XOR of the framebuffer with the sprite's image, and `VF` is 1
exactly when image and old framebuffer share a set pixel. -/
def Obligations.DrawXorsSpriteAndReportsCollision : Prop :=
  ∀ (s : State) (x y : Reg) (n : Nat), x ≠ Reg.flag → y ≠ Reg.flag → n < 16 → (n = 0 ∨ s.indexed (n - 1) ≤ 0xFFF) →
    ∃ t, exec (.drw x y n) s = .next t ∧
      (∀ cx cy, t.fb.pixel cx cy = true ↔
        Xor (s.fb.pixel cx cy = true) (SpriteCovers s (s.getV x).toNat (s.getV y).toNat n cx cy)) ∧
      ((∃ cx cy, s.fb.pixel cx cy = true ∧ SpriteCovers s (s.getV x).toNat (s.getV y).toNat n cx cy) →
        t.getV Reg.flag = 1) ∧
      ((¬ ∃ cx cy, s.fb.pixel cx cy = true ∧ SpriteCovers s (s.getV x).toNat (s.getV y).toNat n cx cy) →
        t.getV Reg.flag = 0) ∧
      ScreenAndFlagOnly s t

/-- Drawing the same sprite twice at the same place restores the framebuffer; the second draw reports a collision exactly when
the sprite has a 1 over a pixel that was 0 before the first (log 28). -/
def Obligations.DrawingTwiceRestoresTheScreen : Prop :=
  ∀ (s : State) (x y : Reg) (n : Nat), x ≠ Reg.flag → y ≠ Reg.flag → n < 16 → (n = 0 ∨ s.indexed (n - 1) ≤ 0xFFF) →
    ∃ t u, exec (.drw x y n) s = .next t ∧ exec (.drw x y n) t = .next u ∧ u.fb = s.fb ∧
      (u.getV Reg.flag = 1 ↔
        ∃ cx cy, s.fb.pixel cx cy = false ∧ SpriteCovers s (s.getV x).toNat (s.getV y).toNat n cx cy)

/-- `Dxyn` completes for every choice of registers, the flag register included, and every row count whose bytes are in memory:
`VF` ends 0 or 1, no other register, no byte and nothing else but the framebuffer changes; with no rows no pixel changes and `VF`
is 0. -/
def Obligations.DrawCompletesForEveryOperand : Prop :=
  ∀ (s : State) (x y : Reg) (n : Nat), (n = 0 ∨ s.indexed (n - 1) ≤ 0xFFF) →
    ∃ t, exec (.drw x y n) s = .next t ∧ (t.getV Reg.flag = 0 ∨ t.getV Reg.flag = 1) ∧
      (n = 0 → t.fb = s.fb ∧ t.getV Reg.flag = 0) ∧ ScreenAndFlagOnly s t

/-- On a clear screen, for every choice of registers: exactly the sprite's image is set and `VF` is 0; a coordinate taken from the
flag register is 0, since `VF` is cleared first (the order is the spec's decision D10, log 7). -/
def Obligations.DrawOnClearScreenSetsTheImage : Prop :=
  ∀ (s : State) (x y : Reg) (n : Nat), n < 16 → (n = 0 ∨ s.indexed (n - 1) ≤ 0xFFF) →
    (∀ cx cy, s.fb.pixel cx cy = false) →
    ∃ t, exec (.drw x y n) s = .next t ∧ t.getV Reg.flag = 0 ∧
      ∀ cx cy, t.fb.pixel cx cy = true ↔
        SpriteCovers s (if x = Reg.flag then 0 else (s.getV x).toNat) (if y = Reg.flag then 0 else (s.getV y).toNat) n cx cy

/-- What coordinate register `x` reads as while a sprite is drawn: the register's value, or, for the flag register, whether a pixel
has collided so far (R151 (f); D10, log 7). -/
def Sys2Proof.Machine.State.liveCoordinate (s : State) (x : Reg) (collided : Bool) : Nat :=
  if x = Reg.flag then (if collided then 1 else 0) else (s.getV x).toNat

/-- Where bit `bit` of sprite row `row` lands, when the first collision is the one at `first` (its row and its bit), or there is
none: the row is read once for each sprite row, the column for each bit (R151). -/
def Sys2Proof.Machine.State.landing (s : State) (x y : Reg) (first : Option (Nat × Nat)) (row bit : Nat) : Fin 64 × Fin 32 :=
  match first with
  | none => (Fin.ofNat 64 (s.liveCoordinate x false + bit), Fin.ofNat 32 (s.liveCoordinate y false + row))
  | some (r, b) => (Fin.ofNat 64 (s.liveCoordinate x (decide (r < row ∨ r = row ∧ b < bit)) + bit),
      Fin.ofNat 32 (s.liveCoordinate y (decide (r < row)) + row))

/-- Bit `bit` of sprite row `row`, the leftmost being bit 0, is 1 (R151). -/
def Sys2Proof.Machine.State.SpriteHas (s : State) (row bit : Nat) : Prop :=
  (s.readByte (s.i.toNat + row)).getLsbD (7 - bit) = true

/-- Bit `bit` of sprite row `row` is 1 and, while nothing has collided, lands on a set pixel of the screen. -/
def Sys2Proof.Machine.State.Hits (s : State) (x y : Reg) (n row bit : Nat) : Prop :=
  row < n ∧ bit < 8 ∧ s.SpriteHas row bit ∧
    s.fb.pixel (s.landing x y none row bit).1 (s.landing x y none row bit).2 = true

/-- `first` is the first hit in drawing order, or none when no bit hits. -/
def Sys2Proof.Machine.State.FirstCollision (s : State) (x y : Reg) (n : Nat) (first : Option (Nat × Nat)) : Prop :=
  match first with
  | none => ∀ row bit, ¬ s.Hits x y n row bit
  | some (r, b) => s.Hits x y n r b ∧ ∀ row bit, row < r ∨ row = r ∧ bit < b → ¬ s.Hits x y n row bit

/-- R151 with any coordinate registers, the flag register included, on any screen: the coordinates are read live, so that with
`x = VF` the bits after the first collision, and with `y = VF` the rows after it, land one column, or one row, further; the
framebuffer is XORed with the sprite so placed, and `VF` says whether there was a collision (the order is the spec's decision D10,
log 7). -/
def Obligations.DrawReadsItsCoordinatesLive : Prop :=
  ∀ (s : State) (x y : Reg) (n : Nat), n < 16 → (n = 0 ∨ s.indexed (n - 1) ≤ 0xFFF) →
    ∃ t first, exec (.drw x y n) s = .next t ∧ s.FirstCollision x y n first ∧
      (t.getV Reg.flag).toNat = (if first.isSome then 1 else 0) ∧
      (∀ cx cy, t.fb.pixel cx cy = true ↔ Xor (s.fb.pixel cx cy = true)
        (∃ row < n, ∃ bit < 8, s.SpriteHas row bit ∧ s.landing x y first row bit = (cx, cy))) ∧
      ScreenAndFlagOnly s t

/-! ## Keys and timers -/

/-- `Ex9E` and `ExA1` with a key index of at most 15 skip exactly when that key is set, or clear. -/
def Obligations.KeySkipsTestTheNamedKey : Prop :=
  ∀ (s : State) (x : Reg), (s.getV x).toNat ≤ 15 →
    (∃ t, exec (.skp x) s = .next t ∧ (s.keySet (s.getV x).toNat = true → t.pc = s.pc + 2) ∧
      (s.keySet (s.getV x).toNat = false → t.pc = s.pc) ∧ PcOnly s t) ∧
    (∃ t, exec (.sknp x) s = .next t ∧ (s.keySet (s.getV x).toNat = false → t.pc = s.pc + 2) ∧
      (s.keySet (s.getV x).toNat = true → t.pc = s.pc) ∧ PcOnly s t)

/-- `Fx0A`: with a key set, `V[x]` is the highest set key and `pc` stays advanced; with none, `pc` goes back by 2 and nothing else
changes. -/
def Obligations.WaitForKeyTakesHighestKeyOrRewinds : Prop :=
  ∀ (s : State) (x : Reg),
    (∀ key < 16, s.keySet key = true → (∀ j < 16, key < j → s.keySet j = false) →
      ∃ t, exec (.ldVxK x) s = .next t ∧ (t.getV x).toNat = key ∧ OnlyRegister s t x) ∧
    ((∀ j < 16, s.keySet j = false) →
      ∃ t, exec (.ldVxK x) s = .next t ∧ t.pc = s.pc - 2 ∧ PcOnly s t)

/-- A program stalled in `Fx0A` for any number of moves with no key set stays where it is, and only the timers fall, by one for
each move and not below 0. -/
def Obligations.StalledWaitOnlyTicksTheTimers : Prop :=
  ∀ (s : State) (x : Reg) (bs : List Byte), s.current = some (.ldVxK x) → s.rndIn = none → s.k = 0 →
    ∃ t, moves (bs.map (fun b => ((0 : Word), b))) s = .next t ∧ t.dt.toNat = s.dt.toNat - bs.length ∧
      t.st.toNat = s.st.toNat - bs.length ∧ t = { s with dt := t.dt, st := t.st }

/-- R163 and R164: `Fx07` copies `DT` as it was, `Fx15` sets it from `V[x]`; at the end of the step the tick has lowered it, the
value just set included, and `Fx15` leaves `ST` to the tick alone. -/
def Obligations.DelayTimerIsReadAndSetThenTicks : Prop :=
  ∀ (s before : State) (x : Reg), s.fault = none →
    (∃ t u, exec (.ldVxDt x) s = .next t ∧ t.getV x = s.dt ∧ OnlyRegister s t x ∧
      before.finish (exec (.ldVxDt x) s) = .next u ∧ u.getV x = s.dt ∧ u.dt.toNat = s.dt.toNat - 1) ∧
    (∃ t u, exec (.ldDtVx x) s = .next t ∧ t.dt = s.getV x ∧ t = { s with dt := t.dt } ∧ SameMemory s t ∧
      before.finish (exec (.ldDtVx x) s) = .next u ∧ u.dt.toNat = (s.getV x).toNat - 1 ∧ u.st.toNat = s.st.toNat - 1)

/-- R165: `Fx18` sets `ST` from `V[x]`, the tick of the same step lowers it, and the host hears sound exactly when it is then
above 0; no instruction reads `ST`: another value of it leaves the step, but for `ST` itself, as it was. -/
def Obligations.SoundTimerIsSetAndReadByTheHostOnly : Prop :=
  (∀ (s before : State) (x : Reg), s.fault = none →
    ∃ t u, exec (.ldStVx x) s = .next t ∧ t.st = s.getV x ∧ t = { s with st := t.st } ∧ SameMemory s t ∧
      before.finish (exec (.ldStVx x) s) = .next u ∧ u.st.toNat = (s.getV x).toNat - 1 ∧
      u.dt.toNat = s.dt.toNat - 1 ∧ u.view.soundOn = decide (0 < u.st.toNat)) ∧
  (∀ (s t : State) (b : Byte), step s = .next t → ∃ u, step { s with st := b } = .next u ∧ t = { u with st := t.st })

/-! ## Faults -/

/-- Each handler that can fault does so exactly on its rule's condition: where the condition holds it records the fault with its
information and changes nothing but the latch, and where it does not hold it leaves the latch as it was (the fatal, precise policy
is the spec's decision D1 and D2, log 6; the key index D8, log 8; the recorded information D14 and D18, log 12, log 21). -/
def Obligations.HandlerFaultsSetTheLatchOnly : Prop :=
  ∀ (s : State) (x y : Reg) (n : Nat) (nnn : Word),
    (s.sp.val = 16 → exec (.call nnn) s = .next { s with fault := some .stackOverflow }) ∧
    (s.sp.val = 0 → exec .ret s = .next { s with fault := some .stackUnderflow }) ∧
    (1 ≤ n → 0xFFF < s.indexed (n - 1) → exec (.drw x y n) s =
      .next { s with fault := some (.outOfBoundsAccess (max s.i.toNat 0x1000) .sprite) }) ∧
    (0xFFF < s.indexed 2 → exec (.ldB x) s =
      .next { s with fault := some (.outOfBoundsAccess (max s.i.toNat 0x1000) .bcd) }) ∧
    (0xFFF < s.indexed x.val → exec (.ldMemVx x) s =
      .next { s with fault := some (.outOfBoundsAccess (max s.i.toNat 0x1000) .dump) }) ∧
    (0xFFF < s.indexed x.val → exec (.ldVxMem x) s =
      .next { s with fault := some (.outOfBoundsAccess (max s.i.toNat 0x1000) .load) }) ∧
    (15 < (s.getV x).toNat → exec (.skp x) s = .next { s with fault := some (.keyIndexOutOfRange (s.getV x)) }) ∧
    (15 < (s.getV x).toNat → exec (.sknp x) s = .next { s with fault := some (.keyIndexOutOfRange (s.getV x)) }) ∧
    (s.sp.val ≠ 16 → ∃ t, exec (.call nnn) s = .next t ∧ t.fault = s.fault) ∧
    (s.sp.val ≠ 0 → ∃ t, exec .ret s = .next t ∧ t.fault = s.fault) ∧
    (n = 0 ∨ s.indexed (n - 1) ≤ 0xFFF → ∃ t, exec (.drw x y n) s = .next t ∧ t.fault = s.fault) ∧
    (s.indexed 2 ≤ 0xFFF → ∃ t, exec (.ldB x) s = .next t ∧ t.fault = s.fault) ∧
    (s.indexed x.val ≤ 0xFFF → ∃ t, exec (.ldMemVx x) s = .next t ∧ t.fault = s.fault) ∧
    (s.indexed x.val ≤ 0xFFF → ∃ t, exec (.ldVxMem x) s = .next t ∧ t.fault = s.fault) ∧
    ((s.getV x).toNat ≤ 15 → ∃ t, exec (.skp x) s = .next t ∧ t.fault = s.fault) ∧
    ((s.getV x).toNat ≤ 15 → ∃ t, exec (.sknp x) s = .next t ∧ t.fault = s.fault)

/-- The condition under which a step of a state without a latched fault faults with `f` (R170 to R174). -/
def Sys2Proof.Machine.FaultCondition (s : State) (f : Fault) : Prop :=
  if 0xFFE < s.pc.toNat then f = .outOfBoundsAccess (max s.pc.toNat 0x1000) .fetch
  else match decodeWord (s.wordAt s.pc.toNat) with
    | some (.call _) => s.sp.val = 16 ∧ f = .stackOverflow
    | some .ret => s.sp.val = 0 ∧ f = .stackUnderflow
    | some (.drw _ _ n) => (1 ≤ n ∧ 0xFFF < s.i.toNat + n - 1) ∧ f = .outOfBoundsAccess (max s.i.toNat 0x1000) .sprite
    | some (.ldB _) => 0xFFF < s.i.toNat + 2 ∧ f = .outOfBoundsAccess (max s.i.toNat 0x1000) .bcd
    | some (.ldMemVx x) => 0xFFF < s.i.toNat + x.val ∧ f = .outOfBoundsAccess (max s.i.toNat 0x1000) .dump
    | some (.ldVxMem x) => 0xFFF < s.i.toNat + x.val ∧ f = .outOfBoundsAccess (max s.i.toNat 0x1000) .load
    | some (.skp x) => 15 < (s.getV x).toNat ∧ f = .keyIndexOutOfRange (s.getV x)
    | some (.sknp x) => 15 < (s.getV x).toNat ∧ f = .keyIndexOutOfRange (s.getV x)
    | _ => False

/-- A step latches a fault exactly on the conditions of R170 to R174, and no other instruction and no other condition faults. -/
def Obligations.StepFaultsExactlyOnItsConditions : Prop :=
  ∀ (s t : State) (f : Fault), s.fault = none → step s = .next t → (t.fault = some f ↔ FaultCondition s f)

/-- A faulting step leaves all the state as it was, `pc` at the faulting instruction and the timers not ticked, but for the latch
(the precise policy is the spec's decision D2, log 6). -/
def Obligations.FaultingStepChangesOnlyTheLatch : Prop :=
  ∀ (s t : State) (f : Fault), s.fault = none → step s = .next t → t.fault = some f →
    t = { s with fault := some f } ∧ SameMemory s t

/-- FAULTED is sticky: no number of moves, with any inputs, changes anything but the latch `K` that the host itself writes
(D20, log 4). -/
def Obligations.FaultedStateIsHeld : Prop :=
  ∀ (s : State) (f : Fault) (inputs : List (Word × Byte)), s.fault = some f → s.rndIn = none →
    ∃ t, moves inputs s = .next t ∧ t = { s with k := t.k }

/-! ## Rules about the whole machine -/

/-- Each storage changes only by its own instructions: memory by `Fx33`, `Fx55`; the framebuffer by `00E0`, `Dxyn`; `I` by `Annn`,
`Fx1E`, `Fx29`; stack entries by `2nnn`; `sp` by `2nnn`, `00EE`; the latch `K` and the parameters by none. -/
def Obligations.StoragesChangeOnlyByTheirInstructions : Prop :=
  ∀ s t : State, step s = .next t →
    t.k = s.k ∧ t.cfg = s.cfg ∧
    (¬ SameMemory s t → (∃ x, s.current = some (.ldB x)) ∨ ∃ x, s.current = some (.ldMemVx x)) ∧
    (t.fb ≠ s.fb → s.current = some .cls ∨ ∃ x y n, s.current = some (.drw x y n)) ∧
    (t.i ≠ s.i → (∃ nnn, s.current = some (.ldI nnn)) ∨ (∃ x, s.current = some (.addI x)) ∨
      ∃ x, s.current = some (.ldF x)) ∧
    (t.stk ≠ s.stk → ∃ nnn, s.current = some (.call nnn)) ∧
    (t.sp ≠ s.sp → (∃ nnn, s.current = some (.call nnn)) ∨ s.current = some .ret)

/-- A general register `r` changes only by an instruction that has it as destination: `x` of a register-writing instruction, one
of `V[0]` to `V[x]` of `Fx65`, or `VF` as the flag output of `8xy4` to `8xy7`, `8xyE`, `Dxyn` (the list of R22). -/
def Obligations.RegistersChangeOnlyAsDestinations : Prop :=
  ∀ (s t : State) (r : Reg), step s = .next t → t.getV r ≠ s.getV r →
    ∃ i, s.current = some i ∧
      match i with
      | .ldImm x _ | .addImm x _ | .rnd x _ => r = x
      | .ldReg x _ | .orReg x _ | .andReg x _ | .xorReg x _ => r = x
      | .addReg x _ | .subReg x _ | .shr x _ | .subnReg x _ | .shl x _ => r = x ∨ r = Reg.flag
      | .drw _ _ _ => r = Reg.flag
      | .ldVxDt x | .ldVxK x => r = x
      | .ldVxMem x => r ≤ x
      | _ => False

/-! ## Host interface -/

/-- R193: the launch state of a program is the reset state with the image at 0x200 and upward; every other byte, and all other
state, is as after reset; the first instruction is the big-endian word at 0x200, and a `00EE` there faults. -/
def Obligations.LaunchStateHoldsTheImage : Prop :=
  ∀ (c : Config) (image : List Byte), image.length ≤ 3584 → ∃ t, launch c image = .next t ∧
    (∀ (j : Nat) (h : j < image.length), t.readByte (0x200 + j) = image[j]) ∧
    BytesOnly (State.resetWith c) t 0x200 image.length ∧ t.Inv ∧
    t.fetch = .ok (composeWord (t.readByte 0x200) (t.readByte 0x201)) ∧
    exec .ret t.advancePc = .next (t.advancePc.raise .stackUnderflow)

/-- The model has no move for a host that breaks the rules: a load after the first step, a load outside 0x200 to 0xFFF and an image
of more than 3584 bytes are refused by name (the spec's decision D29, log 16, log 24); a reset opens loading again. -/
def Obligations.HostMovesOutsideTheRulesAreRefused : Prop :=
  (∀ (sys : System) (keys : Word) (b byte : Byte) (a : Nat), ∃ t, sys.handle (.tick keys b) = .next t ∧
    t.handle (.load a byte) = .refused .loadAfterFirstStep) ∧
  (∀ (sys : System) (a : Nat) (byte : Byte), sys.phase = .loading → a < 0x200 ∨ 0xFFF < a →
    sys.handle (.load a byte) = .refused (.loadOutsideProgramArea a)) ∧
  (∀ (sys : System) (a : Nat) (byte : Byte), 0x200 ≤ a → a ≤ 0xFFF → ∃ t u, sys.handle .reset = .next t ∧
    t.handle (.load a byte) = .next u ∧ u.core.readByte a = byte ∧ u.core.fault = none) ∧
  (∀ (c : Config) (image : List Byte), 3584 < image.length → launch c image = .refused (.imageTooLong image.length))

/-- A finished program stays finished for any further moves: `V`, `I`, `sp`, `STK`, `FB`, memory and `pc` are unchanged and the
timers fall toward 0 (the end-of-run convention is the spec's decision D25, log 26). -/
def Obligations.FinishedProgramStaysFinished : Prop :=
  ∀ (s : State) (here : Word) (inputs : List (Word × Byte)), s.finishedAt here = true → s.rndIn = none →
    ∃ t, moves inputs s = .next t ∧ t.finishedAt here = true ∧ t.dt.toNat = s.dt.toNat - inputs.length ∧
      t.st.toNat = s.st.toNat - inputs.length ∧ t = { s with dt := t.dt, st := t.st, k := t.k } ∧ SameMemory s t

/-- The instruction reads an input of the step: the latch or the random byte (R196). -/
def Sys2Proof.Machine.readsInput : Option Instr → Bool
  | some (.skp _) | some (.sknp _) | some (.ldVxK _) | some (.rnd _ _) => true
  | _ => false

/-- Along the run with the given inputs no step executes an instruction that reads an input. -/
def Sys2Proof.Machine.InputFree : List (Word × Byte) → State → Prop
  | [], _ => True
  | (keys, b) :: rest, s => readsInput s.current = false ∧ ∀ t, move keys b s = .next t → InputFree rest t

/-- R196: a run that executes none of `Ex9E`, `ExA1`, `Fx0A`, `Cxkk` is a function of its start: any other inputs of the same number
give the same states but for the latch itself. -/
def Obligations.InputFreeRunIgnoresInputs : Prop :=
  ∀ (inputs others : List (Word × Byte)) (s : State), s.rndIn = none → InputFree inputs s →
    inputs.length = others.length →
    ∃ t u, moves inputs s = .next t ∧ moves others s = .next u ∧ u = { t with k := u.k }
end

