-- ==== Sys2Proof/Laws/Decode.lean ====
section
/-! SUPPORT. Nibbles and fields of packed words, and of any word. -/

namespace Sys2Proof

/-- The bits of a packed word (R71). -/
theorem getLsbD_packNibbles (a b c d : BitVec 4) (j : Nat) : (packNibbles a b c d).getLsbD j =
    if j < 4 then d.getLsbD j else if j < 8 then c.getLsbD (j - 4) else if j < 12 then b.getLsbD (j - 8)
    else a.getLsbD (j - 12) := by
  simp only [packNibbles, BitVec.getLsbD_append]
  split_ifs <;> first | rfl | omega

@[simp] theorem nibble1_pack (a b c d : BitVec 4) : nibble1 (packNibbles a b c d) = a := by
  apply BitVec.eq_of_getLsbD_eq; intro j hj
  simp only [nibble1, BitVec.getLsbD_extractLsb', getLsbD_packNibbles]
  simp [hj, show ¬ 12 + j < 4 by omega, show ¬ 12 + j < 8 by omega, show ¬ 12 + j < 12 by omega]

@[simp] theorem nibble2_pack (a b c d : BitVec 4) : nibble2 (packNibbles a b c d) = b := by
  apply BitVec.eq_of_getLsbD_eq; intro j hj
  simp only [nibble2, BitVec.getLsbD_extractLsb', getLsbD_packNibbles]
  simp [hj, show ¬ 8 + j < 4 by omega, show ¬ 8 + j < 8 by omega, show 8 + j < 12 by omega]

@[simp] theorem nibble3_pack (a b c d : BitVec 4) : nibble3 (packNibbles a b c d) = c := by
  apply BitVec.eq_of_getLsbD_eq; intro j hj
  simp only [nibble3, BitVec.getLsbD_extractLsb', getLsbD_packNibbles]
  simp [hj, show ¬ 4 + j < 4 by omega, show 4 + j < 8 by omega]

@[simp] theorem nibble4_pack (a b c d : BitVec 4) : nibble4 (packNibbles a b c d) = d := by
  apply BitVec.eq_of_getLsbD_eq; intro j hj
  simp only [nibble4, BitVec.getLsbD_extractLsb', getLsbD_packNibbles]
  simp [hj]

/-- Every word is its four nibbles (R71). -/
theorem packNibbles_nibbles (op : Word) : packNibbles (nibble1 op) (nibble2 op) (nibble3 op) (nibble4 op) = op := by
  apply BitVec.eq_of_getLsbD_eq; intro j hj
  simp only [getLsbD_packNibbles, nibble1, nibble2, nibble3, nibble4, BitVec.getLsbD_extractLsb']
  split_ifs with h1 h2 h3
  · simp [h1]
  · simp [show j - 4 < 4 by omega, show 4 + (j - 4) = j by omega]
  · simp [show j - 8 < 4 by omega, show 8 + (j - 8) = j by omega]
  · simp [show j - 12 < 4 by omega, show 12 + (j - 12) = j by omega]

/-- `kk` is `n3 ++ n4` (R72). -/
theorem fieldKk_eq_append (op : Word) : fieldKk op = nibble3 op ++ nibble4 op := by
  apply BitVec.eq_of_getLsbD_eq; intro j hj
  simp only [fieldKk, nibble3, nibble4, BitVec.getLsbD_append, BitVec.getLsbD_extractLsb']
  rcases Nat.lt_or_ge j 4 with h | h
  · simp [h, hj]
  · simp [show ¬ j < 4 by omega, show j - 4 < 4 by omega, show 4 + (j - 4) = j by omega, hj]

/-- `nnn` is `n2 ++ n3 ++ n4`, zero-extended (R72, R73). -/
theorem fieldNnn_eq_pack (op : Word) : fieldNnn op = packNibbles 0 (nibble2 op) (nibble3 op) (nibble4 op) := by
  apply BitVec.eq_of_getLsbD_eq; intro j hj
  simp only [fieldNnn, getLsbD_packNibbles, nibble2, nibble3, nibble4, BitVec.getLsbD_extractLsb',
    BitVec.getLsbD_setWidth]
  split_ifs with h1 h2 h3
  · simp [h1, hj, show j < 12 by omega]
  · simp [hj, show j - 4 < 4 by omega, show 4 + (j - 4) = j by omega, show j < 12 by omega]
  · simp [hj, show j - 8 < 4 by omega, show 8 + (j - 8) = j by omega, h3]
  · simp [h3]

@[simp] theorem regOfNibble_nibbleOfReg (x : Reg) : regOfNibble (nibbleOfReg x) = x := by
  apply Fin.ext; simp [regOfNibble, nibbleOfReg]

@[simp] theorem nibbleOfReg_regOfNibble (b : BitVec 4) : nibbleOfReg (regOfNibble b) = b := by
  simp [regOfNibble, nibbleOfReg]

/-- A byte is its two nibbles. -/
theorem append_nibbles_byte (kk : Byte) : kk.extractLsb' 4 4 ++ kk.extractLsb' 0 4 = kk := by
  apply BitVec.eq_of_getLsbD_eq; intro j hj
  simp only [BitVec.getLsbD_append, BitVec.getLsbD_extractLsb']
  rcases Nat.lt_or_ge j 4 with h | h
  · simp [h]
  · simp [show ¬ j < 4 by omega, show j - 4 < 4 by omega, show 4 + (j - 4) = j by omega]

/-- A decoded address operand fits its field. -/
theorem fieldNnn_lt (op : Word) : (fieldNnn op).toNat < 4096 := by
  simp [fieldNnn]; omega

theorem fieldN_lt (op : Word) : fieldN op < 16 := (nibble4 op).isLt

/-- The two bytes a word is stored as compose to it again (R57). -/
@[simp] theorem composeWord_bytes (op : Word) : composeWord (highByte op) (lowByte op) = op := by
  apply BitVec.eq_of_getLsbD_eq; intro j hj
  simp only [composeWord, highByte, lowByte, BitVec.getLsbD_append, BitVec.getLsbD_extractLsb']
  rcases Nat.lt_or_ge j 8 with h | h
  · simp [h]
  · simp [show ¬ j < 8 by omega, show j - 8 < 8 by omega, show 8 + (j - 8) = j by omega]

end Sys2Proof
end

