-- ==== Sys2Proof/Laws/State.lean ====
section
/-! SUPPORT. What each update of the state does to each field, and to register and byte reads: one lemma per field per
update, true by unfolding the update once. -/

namespace Sys2Proof.Machine

variable (s : State)

/-! ### setV -/

@[simp] theorem State.cfg_setV (x : Reg) (b : Byte) : (s.setV x b).cfg = s.cfg := rfl
@[simp] theorem State.mem_setV (x : Reg) (b : Byte) : (s.setV x b).mem = s.mem := rfl
@[simp] theorem State.v_setV (x : Reg) (b : Byte) : (s.setV x b).v = s.v.set x.val b x.isLt := rfl
@[simp] theorem State.i_setV (x : Reg) (b : Byte) : (s.setV x b).i = s.i := rfl
@[simp] theorem State.pc_setV (x : Reg) (b : Byte) : (s.setV x b).pc = s.pc := rfl
@[simp] theorem State.stk_setV (x : Reg) (b : Byte) : (s.setV x b).stk = s.stk := rfl
@[simp] theorem State.sp_setV (x : Reg) (b : Byte) : (s.setV x b).sp = s.sp := rfl
@[simp] theorem State.dt_setV (x : Reg) (b : Byte) : (s.setV x b).dt = s.dt := rfl
@[simp] theorem State.st_setV (x : Reg) (b : Byte) : (s.setV x b).st = s.st := rfl
@[simp] theorem State.fb_setV (x : Reg) (b : Byte) : (s.setV x b).fb = s.fb := rfl
@[simp] theorem State.k_setV (x : Reg) (b : Byte) : (s.setV x b).k = s.k := rfl
@[simp] theorem State.fault_setV (x : Reg) (b : Byte) : (s.setV x b).fault = s.fault := rfl
@[simp] theorem State.rndIn_setV (x : Reg) (b : Byte) : (s.setV x b).rndIn = s.rndIn := rfl
@[simp] theorem State.rndDraws_setV (x : Reg) (b : Byte) : (s.setV x b).rndDraws = s.rndDraws := rfl
@[simp] theorem State.readByte_setV (x : Reg) (b : Byte) (p : Nat) : (s.setV x b).readByte p = s.readByte p := rfl
@[simp] theorem State.wordAt_setV (x : Reg) (b : Byte) (p : Nat) : (s.setV x b).wordAt p = s.wordAt p := rfl

/-! ### setFlag -/

@[simp] theorem State.cfg_setFlag (c : Bool) : (s.setFlag c).cfg = s.cfg := rfl
@[simp] theorem State.mem_setFlag (c : Bool) : (s.setFlag c).mem = s.mem := rfl
@[simp] theorem State.v_setFlag (c : Bool) : (s.setFlag c).v = s.v.set Reg.flag.val (flagByte c) Reg.flag.isLt := rfl
@[simp] theorem State.i_setFlag (c : Bool) : (s.setFlag c).i = s.i := rfl
@[simp] theorem State.pc_setFlag (c : Bool) : (s.setFlag c).pc = s.pc := rfl
@[simp] theorem State.stk_setFlag (c : Bool) : (s.setFlag c).stk = s.stk := rfl
@[simp] theorem State.sp_setFlag (c : Bool) : (s.setFlag c).sp = s.sp := rfl
@[simp] theorem State.dt_setFlag (c : Bool) : (s.setFlag c).dt = s.dt := rfl
@[simp] theorem State.st_setFlag (c : Bool) : (s.setFlag c).st = s.st := rfl
@[simp] theorem State.fb_setFlag (c : Bool) : (s.setFlag c).fb = s.fb := rfl
@[simp] theorem State.k_setFlag (c : Bool) : (s.setFlag c).k = s.k := rfl
@[simp] theorem State.fault_setFlag (c : Bool) : (s.setFlag c).fault = s.fault := rfl
@[simp] theorem State.rndIn_setFlag (c : Bool) : (s.setFlag c).rndIn = s.rndIn := rfl
@[simp] theorem State.rndDraws_setFlag (c : Bool) : (s.setFlag c).rndDraws = s.rndDraws := rfl
@[simp] theorem State.readByte_setFlag (c : Bool) (p : Nat) : (s.setFlag c).readByte p = s.readByte p := rfl
@[simp] theorem State.wordAt_setFlag (c : Bool) (p : Nat) : (s.setFlag c).wordAt p = s.wordAt p := rfl

/-! ### orFlag -/

@[simp] theorem State.cfg_orFlag (c : Bool) : (s.orFlag c).cfg = s.cfg := rfl
@[simp] theorem State.mem_orFlag (c : Bool) : (s.orFlag c).mem = s.mem := rfl
@[simp] theorem State.v_orFlag (c : Bool) : (s.orFlag c).v = s.v.set Reg.flag.val (s.getV Reg.flag ||| flagByte c) Reg.flag.isLt := rfl
@[simp] theorem State.i_orFlag (c : Bool) : (s.orFlag c).i = s.i := rfl
@[simp] theorem State.pc_orFlag (c : Bool) : (s.orFlag c).pc = s.pc := rfl
@[simp] theorem State.stk_orFlag (c : Bool) : (s.orFlag c).stk = s.stk := rfl
@[simp] theorem State.sp_orFlag (c : Bool) : (s.orFlag c).sp = s.sp := rfl
@[simp] theorem State.dt_orFlag (c : Bool) : (s.orFlag c).dt = s.dt := rfl
@[simp] theorem State.st_orFlag (c : Bool) : (s.orFlag c).st = s.st := rfl
@[simp] theorem State.fb_orFlag (c : Bool) : (s.orFlag c).fb = s.fb := rfl
@[simp] theorem State.k_orFlag (c : Bool) : (s.orFlag c).k = s.k := rfl
@[simp] theorem State.fault_orFlag (c : Bool) : (s.orFlag c).fault = s.fault := rfl
@[simp] theorem State.rndIn_orFlag (c : Bool) : (s.orFlag c).rndIn = s.rndIn := rfl
@[simp] theorem State.rndDraws_orFlag (c : Bool) : (s.orFlag c).rndDraws = s.rndDraws := rfl
@[simp] theorem State.readByte_orFlag (c : Bool) (p : Nat) : (s.orFlag c).readByte p = s.readByte p := rfl
@[simp] theorem State.wordAt_orFlag (c : Bool) (p : Nat) : (s.orFlag c).wordAt p = s.wordAt p := rfl

/-! ### setI -/

@[simp] theorem State.cfg_setI (a : Word) : (s.setI a).cfg = s.cfg := rfl
@[simp] theorem State.mem_setI (a : Word) : (s.setI a).mem = s.mem := rfl
@[simp] theorem State.v_setI (a : Word) : (s.setI a).v = s.v := rfl
@[simp] theorem State.i_setI (a : Word) : (s.setI a).i = a := rfl
@[simp] theorem State.pc_setI (a : Word) : (s.setI a).pc = s.pc := rfl
@[simp] theorem State.stk_setI (a : Word) : (s.setI a).stk = s.stk := rfl
@[simp] theorem State.sp_setI (a : Word) : (s.setI a).sp = s.sp := rfl
@[simp] theorem State.dt_setI (a : Word) : (s.setI a).dt = s.dt := rfl
@[simp] theorem State.st_setI (a : Word) : (s.setI a).st = s.st := rfl
@[simp] theorem State.fb_setI (a : Word) : (s.setI a).fb = s.fb := rfl
@[simp] theorem State.k_setI (a : Word) : (s.setI a).k = s.k := rfl
@[simp] theorem State.fault_setI (a : Word) : (s.setI a).fault = s.fault := rfl
@[simp] theorem State.rndIn_setI (a : Word) : (s.setI a).rndIn = s.rndIn := rfl
@[simp] theorem State.rndDraws_setI (a : Word) : (s.setI a).rndDraws = s.rndDraws := rfl
@[simp] theorem State.getV_setI (a : Word) (r : Reg) : (s.setI a).getV r = s.getV r := rfl
@[simp] theorem State.readByte_setI (a : Word) (p : Nat) : (s.setI a).readByte p = s.readByte p := rfl
@[simp] theorem State.wordAt_setI (a : Word) (p : Nat) : (s.setI a).wordAt p = s.wordAt p := rfl

/-! ### advancePc -/

@[simp] theorem State.cfg_advancePc : (s.advancePc).cfg = s.cfg := rfl
@[simp] theorem State.mem_advancePc : (s.advancePc).mem = s.mem := rfl
@[simp] theorem State.v_advancePc : (s.advancePc).v = s.v := rfl
@[simp] theorem State.i_advancePc : (s.advancePc).i = s.i := rfl
@[simp] theorem State.pc_advancePc : (s.advancePc).pc = s.pc + 2 := rfl
@[simp] theorem State.stk_advancePc : (s.advancePc).stk = s.stk := rfl
@[simp] theorem State.sp_advancePc : (s.advancePc).sp = s.sp := rfl
@[simp] theorem State.dt_advancePc : (s.advancePc).dt = s.dt := rfl
@[simp] theorem State.st_advancePc : (s.advancePc).st = s.st := rfl
@[simp] theorem State.fb_advancePc : (s.advancePc).fb = s.fb := rfl
@[simp] theorem State.k_advancePc : (s.advancePc).k = s.k := rfl
@[simp] theorem State.fault_advancePc : (s.advancePc).fault = s.fault := rfl
@[simp] theorem State.rndIn_advancePc : (s.advancePc).rndIn = s.rndIn := rfl
@[simp] theorem State.rndDraws_advancePc : (s.advancePc).rndDraws = s.rndDraws := rfl
@[simp] theorem State.getV_advancePc (r : Reg) : (s.advancePc).getV r = s.getV r := rfl
@[simp] theorem State.readByte_advancePc (p : Nat) : (s.advancePc).readByte p = s.readByte p := rfl
@[simp] theorem State.wordAt_advancePc (p : Nat) : (s.advancePc).wordAt p = s.wordAt p := rfl

/-! ### jumpTo -/

@[simp] theorem State.cfg_jumpTo (a : Word) : (s.jumpTo a).cfg = s.cfg := rfl
@[simp] theorem State.mem_jumpTo (a : Word) : (s.jumpTo a).mem = s.mem := rfl
@[simp] theorem State.v_jumpTo (a : Word) : (s.jumpTo a).v = s.v := rfl
@[simp] theorem State.i_jumpTo (a : Word) : (s.jumpTo a).i = s.i := rfl
@[simp] theorem State.pc_jumpTo (a : Word) : (s.jumpTo a).pc = a := rfl
@[simp] theorem State.stk_jumpTo (a : Word) : (s.jumpTo a).stk = s.stk := rfl
@[simp] theorem State.sp_jumpTo (a : Word) : (s.jumpTo a).sp = s.sp := rfl
@[simp] theorem State.dt_jumpTo (a : Word) : (s.jumpTo a).dt = s.dt := rfl
@[simp] theorem State.st_jumpTo (a : Word) : (s.jumpTo a).st = s.st := rfl
@[simp] theorem State.fb_jumpTo (a : Word) : (s.jumpTo a).fb = s.fb := rfl
@[simp] theorem State.k_jumpTo (a : Word) : (s.jumpTo a).k = s.k := rfl
@[simp] theorem State.fault_jumpTo (a : Word) : (s.jumpTo a).fault = s.fault := rfl
@[simp] theorem State.rndIn_jumpTo (a : Word) : (s.jumpTo a).rndIn = s.rndIn := rfl
@[simp] theorem State.rndDraws_jumpTo (a : Word) : (s.jumpTo a).rndDraws = s.rndDraws := rfl
@[simp] theorem State.getV_jumpTo (a : Word) (r : Reg) : (s.jumpTo a).getV r = s.getV r := rfl
@[simp] theorem State.readByte_jumpTo (a : Word) (p : Nat) : (s.jumpTo a).readByte p = s.readByte p := rfl
@[simp] theorem State.wordAt_jumpTo (a : Word) (p : Nat) : (s.jumpTo a).wordAt p = s.wordAt p := rfl

/-! ### writeByte -/

@[simp] theorem State.cfg_writeByte (a : Nat) (b : Byte) : (s.writeByte a b).cfg = s.cfg := rfl
@[simp] theorem State.mem_writeByte (a : Nat) (b : Byte) : (s.writeByte a b).mem = Memory.write s.cfg s.mem a b := rfl
@[simp] theorem State.v_writeByte (a : Nat) (b : Byte) : (s.writeByte a b).v = s.v := rfl
@[simp] theorem State.i_writeByte (a : Nat) (b : Byte) : (s.writeByte a b).i = s.i := rfl
@[simp] theorem State.pc_writeByte (a : Nat) (b : Byte) : (s.writeByte a b).pc = s.pc := rfl
@[simp] theorem State.stk_writeByte (a : Nat) (b : Byte) : (s.writeByte a b).stk = s.stk := rfl
@[simp] theorem State.sp_writeByte (a : Nat) (b : Byte) : (s.writeByte a b).sp = s.sp := rfl
@[simp] theorem State.dt_writeByte (a : Nat) (b : Byte) : (s.writeByte a b).dt = s.dt := rfl
@[simp] theorem State.st_writeByte (a : Nat) (b : Byte) : (s.writeByte a b).st = s.st := rfl
@[simp] theorem State.fb_writeByte (a : Nat) (b : Byte) : (s.writeByte a b).fb = s.fb := rfl
@[simp] theorem State.k_writeByte (a : Nat) (b : Byte) : (s.writeByte a b).k = s.k := rfl
@[simp] theorem State.fault_writeByte (a : Nat) (b : Byte) : (s.writeByte a b).fault = s.fault := rfl
@[simp] theorem State.rndIn_writeByte (a : Nat) (b : Byte) : (s.writeByte a b).rndIn = s.rndIn := rfl
@[simp] theorem State.rndDraws_writeByte (a : Nat) (b : Byte) : (s.writeByte a b).rndDraws = s.rndDraws := rfl
@[simp] theorem State.getV_writeByte (a : Nat) (b : Byte) (r : Reg) : (s.writeByte a b).getV r = s.getV r := rfl

/-! ### raise -/

@[simp] theorem State.cfg_raise (f : Fault) : (s.raise f).cfg = s.cfg := rfl
@[simp] theorem State.mem_raise (f : Fault) : (s.raise f).mem = s.mem := rfl
@[simp] theorem State.v_raise (f : Fault) : (s.raise f).v = s.v := rfl
@[simp] theorem State.i_raise (f : Fault) : (s.raise f).i = s.i := rfl
@[simp] theorem State.pc_raise (f : Fault) : (s.raise f).pc = s.pc := rfl
@[simp] theorem State.stk_raise (f : Fault) : (s.raise f).stk = s.stk := rfl
@[simp] theorem State.sp_raise (f : Fault) : (s.raise f).sp = s.sp := rfl
@[simp] theorem State.dt_raise (f : Fault) : (s.raise f).dt = s.dt := rfl
@[simp] theorem State.st_raise (f : Fault) : (s.raise f).st = s.st := rfl
@[simp] theorem State.fb_raise (f : Fault) : (s.raise f).fb = s.fb := rfl
@[simp] theorem State.k_raise (f : Fault) : (s.raise f).k = s.k := rfl
@[simp] theorem State.fault_raise (f : Fault) : (s.raise f).fault = some f := rfl
@[simp] theorem State.rndIn_raise (f : Fault) : (s.raise f).rndIn = s.rndIn := rfl
@[simp] theorem State.rndDraws_raise (f : Fault) : (s.raise f).rndDraws = s.rndDraws := rfl
@[simp] theorem State.getV_raise (f : Fault) (r : Reg) : (s.raise f).getV r = s.getV r := rfl
@[simp] theorem State.readByte_raise (f : Fault) (p : Nat) : (s.raise f).readByte p = s.readByte p := rfl
@[simp] theorem State.wordAt_raise (f : Fault) (p : Nat) : (s.raise f).wordAt p = s.wordAt p := rfl

/-! ### clearFb -/

@[simp] theorem State.cfg_clearFb : (s.clearFb).cfg = s.cfg := rfl
@[simp] theorem State.mem_clearFb : (s.clearFb).mem = s.mem := rfl
@[simp] theorem State.v_clearFb : (s.clearFb).v = s.v := rfl
@[simp] theorem State.i_clearFb : (s.clearFb).i = s.i := rfl
@[simp] theorem State.pc_clearFb : (s.clearFb).pc = s.pc := rfl
@[simp] theorem State.stk_clearFb : (s.clearFb).stk = s.stk := rfl
@[simp] theorem State.sp_clearFb : (s.clearFb).sp = s.sp := rfl
@[simp] theorem State.dt_clearFb : (s.clearFb).dt = s.dt := rfl
@[simp] theorem State.st_clearFb : (s.clearFb).st = s.st := rfl
@[simp] theorem State.fb_clearFb : (s.clearFb).fb = Framebuffer.clear := rfl
@[simp] theorem State.k_clearFb : (s.clearFb).k = s.k := rfl
@[simp] theorem State.fault_clearFb : (s.clearFb).fault = s.fault := rfl
@[simp] theorem State.rndIn_clearFb : (s.clearFb).rndIn = s.rndIn := rfl
@[simp] theorem State.rndDraws_clearFb : (s.clearFb).rndDraws = s.rndDraws := rfl
@[simp] theorem State.getV_clearFb (r : Reg) : (s.clearFb).getV r = s.getV r := rfl
@[simp] theorem State.readByte_clearFb (p : Nat) : (s.clearFb).readByte p = s.readByte p := rfl
@[simp] theorem State.wordAt_clearFb (p : Nat) : (s.clearFb).wordAt p = s.wordAt p := rfl

/-! ### setDt -/

@[simp] theorem State.cfg_setDt (b : Byte) : (s.setDt b).cfg = s.cfg := rfl
@[simp] theorem State.mem_setDt (b : Byte) : (s.setDt b).mem = s.mem := rfl
@[simp] theorem State.v_setDt (b : Byte) : (s.setDt b).v = s.v := rfl
@[simp] theorem State.i_setDt (b : Byte) : (s.setDt b).i = s.i := rfl
@[simp] theorem State.pc_setDt (b : Byte) : (s.setDt b).pc = s.pc := rfl
@[simp] theorem State.stk_setDt (b : Byte) : (s.setDt b).stk = s.stk := rfl
@[simp] theorem State.sp_setDt (b : Byte) : (s.setDt b).sp = s.sp := rfl
@[simp] theorem State.dt_setDt (b : Byte) : (s.setDt b).dt = b := rfl
@[simp] theorem State.st_setDt (b : Byte) : (s.setDt b).st = s.st := rfl
@[simp] theorem State.fb_setDt (b : Byte) : (s.setDt b).fb = s.fb := rfl
@[simp] theorem State.k_setDt (b : Byte) : (s.setDt b).k = s.k := rfl
@[simp] theorem State.fault_setDt (b : Byte) : (s.setDt b).fault = s.fault := rfl
@[simp] theorem State.rndIn_setDt (b : Byte) : (s.setDt b).rndIn = s.rndIn := rfl
@[simp] theorem State.rndDraws_setDt (b : Byte) : (s.setDt b).rndDraws = s.rndDraws := rfl
@[simp] theorem State.getV_setDt (b : Byte) (r : Reg) : (s.setDt b).getV r = s.getV r := rfl
@[simp] theorem State.readByte_setDt (b : Byte) (p : Nat) : (s.setDt b).readByte p = s.readByte p := rfl
@[simp] theorem State.wordAt_setDt (b : Byte) (p : Nat) : (s.setDt b).wordAt p = s.wordAt p := rfl

/-! ### setSt -/

@[simp] theorem State.cfg_setSt (b : Byte) : (s.setSt b).cfg = s.cfg := rfl
@[simp] theorem State.mem_setSt (b : Byte) : (s.setSt b).mem = s.mem := rfl
@[simp] theorem State.v_setSt (b : Byte) : (s.setSt b).v = s.v := rfl
@[simp] theorem State.i_setSt (b : Byte) : (s.setSt b).i = s.i := rfl
@[simp] theorem State.pc_setSt (b : Byte) : (s.setSt b).pc = s.pc := rfl
@[simp] theorem State.stk_setSt (b : Byte) : (s.setSt b).stk = s.stk := rfl
@[simp] theorem State.sp_setSt (b : Byte) : (s.setSt b).sp = s.sp := rfl
@[simp] theorem State.dt_setSt (b : Byte) : (s.setSt b).dt = s.dt := rfl
@[simp] theorem State.st_setSt (b : Byte) : (s.setSt b).st = b := rfl
@[simp] theorem State.fb_setSt (b : Byte) : (s.setSt b).fb = s.fb := rfl
@[simp] theorem State.k_setSt (b : Byte) : (s.setSt b).k = s.k := rfl
@[simp] theorem State.fault_setSt (b : Byte) : (s.setSt b).fault = s.fault := rfl
@[simp] theorem State.rndIn_setSt (b : Byte) : (s.setSt b).rndIn = s.rndIn := rfl
@[simp] theorem State.rndDraws_setSt (b : Byte) : (s.setSt b).rndDraws = s.rndDraws := rfl
@[simp] theorem State.getV_setSt (b : Byte) (r : Reg) : (s.setSt b).getV r = s.getV r := rfl
@[simp] theorem State.readByte_setSt (b : Byte) (p : Nat) : (s.setSt b).readByte p = s.readByte p := rfl
@[simp] theorem State.wordAt_setSt (b : Byte) (p : Nat) : (s.setSt b).wordAt p = s.wordAt p := rfl

/-! ### tick -/

@[simp] theorem State.cfg_tick : (s.tick).cfg = s.cfg := rfl
@[simp] theorem State.mem_tick : (s.tick).mem = s.mem := rfl
@[simp] theorem State.v_tick : (s.tick).v = s.v := rfl
@[simp] theorem State.i_tick : (s.tick).i = s.i := rfl
@[simp] theorem State.pc_tick : (s.tick).pc = s.pc := rfl
@[simp] theorem State.stk_tick : (s.tick).stk = s.stk := rfl
@[simp] theorem State.sp_tick : (s.tick).sp = s.sp := rfl
@[simp] theorem State.dt_tick : (s.tick).dt = decTimer s.dt := rfl
@[simp] theorem State.st_tick : (s.tick).st = decTimer s.st := rfl
@[simp] theorem State.fb_tick : (s.tick).fb = s.fb := rfl
@[simp] theorem State.k_tick : (s.tick).k = s.k := rfl
@[simp] theorem State.fault_tick : (s.tick).fault = s.fault := rfl
@[simp] theorem State.rndIn_tick : (s.tick).rndIn = s.rndIn := rfl
@[simp] theorem State.rndDraws_tick : (s.tick).rndDraws = s.rndDraws := rfl
@[simp] theorem State.getV_tick (r : Reg) : (s.tick).getV r = s.getV r := rfl
@[simp] theorem State.readByte_tick (p : Nat) : (s.tick).readByte p = s.readByte p := rfl
@[simp] theorem State.wordAt_tick (p : Nat) : (s.tick).wordAt p = s.wordAt p := rfl

/-! ### writeKeys -/

@[simp] theorem State.cfg_writeKeys (w : Word) : (s.writeKeys w).cfg = s.cfg := rfl
@[simp] theorem State.mem_writeKeys (w : Word) : (s.writeKeys w).mem = s.mem := rfl
@[simp] theorem State.v_writeKeys (w : Word) : (s.writeKeys w).v = s.v := rfl
@[simp] theorem State.i_writeKeys (w : Word) : (s.writeKeys w).i = s.i := rfl
@[simp] theorem State.pc_writeKeys (w : Word) : (s.writeKeys w).pc = s.pc := rfl
@[simp] theorem State.stk_writeKeys (w : Word) : (s.writeKeys w).stk = s.stk := rfl
@[simp] theorem State.sp_writeKeys (w : Word) : (s.writeKeys w).sp = s.sp := rfl
@[simp] theorem State.dt_writeKeys (w : Word) : (s.writeKeys w).dt = s.dt := rfl
@[simp] theorem State.st_writeKeys (w : Word) : (s.writeKeys w).st = s.st := rfl
@[simp] theorem State.fb_writeKeys (w : Word) : (s.writeKeys w).fb = s.fb := rfl
@[simp] theorem State.k_writeKeys (w : Word) : (s.writeKeys w).k = w := rfl
@[simp] theorem State.fault_writeKeys (w : Word) : (s.writeKeys w).fault = s.fault := rfl
@[simp] theorem State.rndIn_writeKeys (w : Word) : (s.writeKeys w).rndIn = s.rndIn := rfl
@[simp] theorem State.rndDraws_writeKeys (w : Word) : (s.writeKeys w).rndDraws = s.rndDraws := rfl
@[simp] theorem State.getV_writeKeys (w : Word) (r : Reg) : (s.writeKeys w).getV r = s.getV r := rfl
@[simp] theorem State.readByte_writeKeys (w : Word) (p : Nat) : (s.writeKeys w).readByte p = s.readByte p := rfl
@[simp] theorem State.wordAt_writeKeys (w : Word) (p : Nat) : (s.writeKeys w).wordAt p = s.wordAt p := rfl

/-! ### supplyRnd -/

@[simp] theorem State.cfg_supplyRnd (b : Byte) : (s.supplyRnd b).cfg = s.cfg := rfl
@[simp] theorem State.mem_supplyRnd (b : Byte) : (s.supplyRnd b).mem = s.mem := rfl
@[simp] theorem State.v_supplyRnd (b : Byte) : (s.supplyRnd b).v = s.v := rfl
@[simp] theorem State.i_supplyRnd (b : Byte) : (s.supplyRnd b).i = s.i := rfl
@[simp] theorem State.pc_supplyRnd (b : Byte) : (s.supplyRnd b).pc = s.pc := rfl
@[simp] theorem State.stk_supplyRnd (b : Byte) : (s.supplyRnd b).stk = s.stk := rfl
@[simp] theorem State.sp_supplyRnd (b : Byte) : (s.supplyRnd b).sp = s.sp := rfl
@[simp] theorem State.dt_supplyRnd (b : Byte) : (s.supplyRnd b).dt = s.dt := rfl
@[simp] theorem State.st_supplyRnd (b : Byte) : (s.supplyRnd b).st = s.st := rfl
@[simp] theorem State.fb_supplyRnd (b : Byte) : (s.supplyRnd b).fb = s.fb := rfl
@[simp] theorem State.k_supplyRnd (b : Byte) : (s.supplyRnd b).k = s.k := rfl
@[simp] theorem State.fault_supplyRnd (b : Byte) : (s.supplyRnd b).fault = s.fault := rfl
@[simp] theorem State.rndIn_supplyRnd (b : Byte) : (s.supplyRnd b).rndIn = some b := rfl
@[simp] theorem State.rndDraws_supplyRnd (b : Byte) : (s.supplyRnd b).rndDraws = s.rndDraws := rfl
@[simp] theorem State.getV_supplyRnd (b : Byte) (r : Reg) : (s.supplyRnd b).getV r = s.getV r := rfl
@[simp] theorem State.readByte_supplyRnd (b : Byte) (p : Nat) : (s.supplyRnd b).readByte p = s.readByte p := rfl
@[simp] theorem State.wordAt_supplyRnd (b : Byte) (p : Nat) : (s.supplyRnd b).wordAt p = s.wordAt p := rfl

/-! ### withdrawRnd -/

@[simp] theorem State.cfg_withdrawRnd : (s.withdrawRnd).cfg = s.cfg := rfl
@[simp] theorem State.mem_withdrawRnd : (s.withdrawRnd).mem = s.mem := rfl
@[simp] theorem State.v_withdrawRnd : (s.withdrawRnd).v = s.v := rfl
@[simp] theorem State.i_withdrawRnd : (s.withdrawRnd).i = s.i := rfl
@[simp] theorem State.pc_withdrawRnd : (s.withdrawRnd).pc = s.pc := rfl
@[simp] theorem State.stk_withdrawRnd : (s.withdrawRnd).stk = s.stk := rfl
@[simp] theorem State.sp_withdrawRnd : (s.withdrawRnd).sp = s.sp := rfl
@[simp] theorem State.dt_withdrawRnd : (s.withdrawRnd).dt = s.dt := rfl
@[simp] theorem State.st_withdrawRnd : (s.withdrawRnd).st = s.st := rfl
@[simp] theorem State.fb_withdrawRnd : (s.withdrawRnd).fb = s.fb := rfl
@[simp] theorem State.k_withdrawRnd : (s.withdrawRnd).k = s.k := rfl
@[simp] theorem State.fault_withdrawRnd : (s.withdrawRnd).fault = s.fault := rfl
@[simp] theorem State.rndIn_withdrawRnd : (s.withdrawRnd).rndIn = none := rfl
@[simp] theorem State.rndDraws_withdrawRnd : (s.withdrawRnd).rndDraws = s.rndDraws := rfl
@[simp] theorem State.getV_withdrawRnd (r : Reg) : (s.withdrawRnd).getV r = s.getV r := rfl
@[simp] theorem State.readByte_withdrawRnd (p : Nat) : (s.withdrawRnd).readByte p = s.readByte p := rfl
@[simp] theorem State.wordAt_withdrawRnd (p : Nat) : (s.withdrawRnd).wordAt p = s.wordAt p := rfl

/-! ### hitPixel -/

@[simp] theorem State.cfg_hitPixel (cx : Fin 64) (cy : Fin 32) : (s.hitPixel cx cy).cfg = s.cfg := rfl
@[simp] theorem State.mem_hitPixel (cx : Fin 64) (cy : Fin 32) : (s.hitPixel cx cy).mem = s.mem := rfl
@[simp] theorem State.v_hitPixel (cx : Fin 64) (cy : Fin 32) : (s.hitPixel cx cy).v = s.v.set Reg.flag.val (s.getV Reg.flag ||| flagByte (s.fb.pixel cx cy)) Reg.flag.isLt := rfl
@[simp] theorem State.i_hitPixel (cx : Fin 64) (cy : Fin 32) : (s.hitPixel cx cy).i = s.i := rfl
@[simp] theorem State.pc_hitPixel (cx : Fin 64) (cy : Fin 32) : (s.hitPixel cx cy).pc = s.pc := rfl
@[simp] theorem State.stk_hitPixel (cx : Fin 64) (cy : Fin 32) : (s.hitPixel cx cy).stk = s.stk := rfl
@[simp] theorem State.sp_hitPixel (cx : Fin 64) (cy : Fin 32) : (s.hitPixel cx cy).sp = s.sp := rfl
@[simp] theorem State.dt_hitPixel (cx : Fin 64) (cy : Fin 32) : (s.hitPixel cx cy).dt = s.dt := rfl
@[simp] theorem State.st_hitPixel (cx : Fin 64) (cy : Fin 32) : (s.hitPixel cx cy).st = s.st := rfl
@[simp] theorem State.fb_hitPixel (cx : Fin 64) (cy : Fin 32) : (s.hitPixel cx cy).fb = s.fb.toggle cx cy := rfl
@[simp] theorem State.k_hitPixel (cx : Fin 64) (cy : Fin 32) : (s.hitPixel cx cy).k = s.k := rfl
@[simp] theorem State.fault_hitPixel (cx : Fin 64) (cy : Fin 32) : (s.hitPixel cx cy).fault = s.fault := rfl
@[simp] theorem State.rndIn_hitPixel (cx : Fin 64) (cy : Fin 32) : (s.hitPixel cx cy).rndIn = s.rndIn := rfl
@[simp] theorem State.rndDraws_hitPixel (cx : Fin 64) (cy : Fin 32) : (s.hitPixel cx cy).rndDraws = s.rndDraws := rfl
@[simp] theorem State.readByte_hitPixel (cx : Fin 64) (cy : Fin 32) (p : Nat) : (s.hitPixel cx cy).readByte p = s.readByte p := rfl
@[simp] theorem State.wordAt_hitPixel (cx : Fin 64) (cy : Fin 32) (p : Nat) : (s.hitPixel cx cy).wordAt p = s.wordAt p := rfl

/-! ### skipIf -/

@[simp] theorem State.skipIf_true : s.skipIf true = s.advancePc := rfl
@[simp] theorem State.skipIf_false : s.skipIf false = s := rfl
@[simp] theorem State.pc_skipIf (c : Bool) : (s.skipIf c).pc = if c then s.pc + 2 else s.pc := by cases c <;> rfl
@[simp] theorem State.cfg_skipIf (c : Bool) : (s.skipIf c).cfg = s.cfg := by cases c <;> rfl
@[simp] theorem State.mem_skipIf (c : Bool) : (s.skipIf c).mem = s.mem := by cases c <;> rfl
@[simp] theorem State.v_skipIf (c : Bool) : (s.skipIf c).v = s.v := by cases c <;> rfl
@[simp] theorem State.i_skipIf (c : Bool) : (s.skipIf c).i = s.i := by cases c <;> rfl
@[simp] theorem State.stk_skipIf (c : Bool) : (s.skipIf c).stk = s.stk := by cases c <;> rfl
@[simp] theorem State.sp_skipIf (c : Bool) : (s.skipIf c).sp = s.sp := by cases c <;> rfl
@[simp] theorem State.dt_skipIf (c : Bool) : (s.skipIf c).dt = s.dt := by cases c <;> rfl
@[simp] theorem State.st_skipIf (c : Bool) : (s.skipIf c).st = s.st := by cases c <;> rfl
@[simp] theorem State.fb_skipIf (c : Bool) : (s.skipIf c).fb = s.fb := by cases c <;> rfl
@[simp] theorem State.k_skipIf (c : Bool) : (s.skipIf c).k = s.k := by cases c <;> rfl
@[simp] theorem State.fault_skipIf (c : Bool) : (s.skipIf c).fault = s.fault := by cases c <;> rfl
@[simp] theorem State.rndIn_skipIf (c : Bool) : (s.skipIf c).rndIn = s.rndIn := by cases c <;> rfl
@[simp] theorem State.rndDraws_skipIf (c : Bool) : (s.skipIf c).rndDraws = s.rndDraws := by cases c <;> rfl
@[simp] theorem State.getV_skipIf (c : Bool) (r : Reg) : (s.skipIf c).getV r = s.getV r := by cases c <;> rfl
@[simp] theorem State.readByte_skipIf (c : Bool) (p : Nat) : (s.skipIf c).readByte p = s.readByte p := by cases c <;> rfl

/-! ### drawRnd -/

@[simp] theorem State.cfg_drawRnd : s.drawRnd.2.cfg = s.cfg := by unfold State.drawRnd; split <;> rfl
@[simp] theorem State.mem_drawRnd : s.drawRnd.2.mem = s.mem := by unfold State.drawRnd; split <;> rfl
@[simp] theorem State.v_drawRnd : s.drawRnd.2.v = s.v := by unfold State.drawRnd; split <;> rfl
@[simp] theorem State.i_drawRnd : s.drawRnd.2.i = s.i := by unfold State.drawRnd; split <;> rfl
@[simp] theorem State.pc_drawRnd : s.drawRnd.2.pc = s.pc := by unfold State.drawRnd; split <;> rfl
@[simp] theorem State.stk_drawRnd : s.drawRnd.2.stk = s.stk := by unfold State.drawRnd; split <;> rfl
@[simp] theorem State.sp_drawRnd : s.drawRnd.2.sp = s.sp := by unfold State.drawRnd; split <;> rfl
@[simp] theorem State.dt_drawRnd : s.drawRnd.2.dt = s.dt := by unfold State.drawRnd; split <;> rfl
@[simp] theorem State.st_drawRnd : s.drawRnd.2.st = s.st := by unfold State.drawRnd; split <;> rfl
@[simp] theorem State.fb_drawRnd : s.drawRnd.2.fb = s.fb := by unfold State.drawRnd; split <;> rfl
@[simp] theorem State.k_drawRnd : s.drawRnd.2.k = s.k := by unfold State.drawRnd; split <;> rfl
@[simp] theorem State.fault_drawRnd : s.drawRnd.2.fault = s.fault := by unfold State.drawRnd; split <;> rfl
@[simp] theorem State.rndIn_drawRnd : s.drawRnd.2.rndIn = none := by unfold State.drawRnd; split <;> simp_all
@[simp] theorem State.getV_drawRnd (r : Reg) : s.drawRnd.2.getV r = s.getV r := by simp [State.getV]
@[simp] theorem State.readByte_drawRnd (p : Nat) : s.drawRnd.2.readByte p = s.readByte p := by simp [State.readByte]

/-! ### Register reads -/

/-- A register read after a register write (R8). -/
@[simp] theorem State.getV_setV (x r : Reg) (b : Byte) : (s.setV x b).getV r = if r = x then b else s.getV r := by
  simp only [State.getV, State.setV, Fin.getElem_fin, Vector.getElem_set, Fin.ext_iff, eq_comm]

@[simp] theorem State.getV_setFlag (c : Bool) (r : Reg) :
    (s.setFlag c).getV r = if r = Reg.flag then flagByte c else s.getV r := State.getV_setV s _ _ _

@[simp] theorem State.getV_orFlag (c : Bool) (r : Reg) :
    (s.orFlag c).getV r = if r = Reg.flag then s.getV Reg.flag ||| flagByte c else s.getV r := State.getV_setV s _ _ _

@[simp] theorem State.getV_hitPixel (cx : Fin 64) (cy : Fin 32) (r : Reg) :
    (s.hitPixel cx cy).getV r = if r = Reg.flag then s.getV Reg.flag ||| flagByte (s.fb.pixel cx cy) else s.getV r :=
  State.getV_orFlag s _ _

/-- Two states agree when all their fields do, registers read one by one. -/
theorem State.v_ext {s t : State} (h : ∀ r, s.getV r = t.getV r) : s.v = t.v := by
  apply Vector.ext
  intro j hj
  exact h ⟨j, hj⟩

end Sys2Proof.Machine
end

