-- ==== Sys2Proof/Laws/Memory.lean ====
section
/-! SUPPORT. The laws of memory: read after write, and every operation keeps the canonical form. -/

namespace Sys2Proof.Machine

@[simp] theorem Memory.lookup_erase (m : Memory) (a p : Nat) :
    Memory.lookup (Memory.erase m a) p = if p = a then none else Memory.lookup m p := by
  induction m with
  | nil => simp [Memory.erase, Memory.lookup]
  | cons c rest ih =>
    simp only [Memory.erase, Memory.lookup]
    split_ifs <;> simp_all [Memory.lookup]

theorem Memory.lookup_insert (m : Memory) (a p : Nat) (b : Byte) (h : Memory.lookup m a = none) :
    Memory.lookup (Memory.insert m a b) p = if p = a then some b else Memory.lookup m p := by
  induction m with
  | nil => simp [Memory.insert, Memory.lookup, eq_comm]
  | cons c rest ih =>
    simp only [Memory.lookup] at h
    split_ifs at h with hc
    simp only [Memory.insert]
    split_ifs with h1 h2 h2 <;> simp_all [Memory.lookup, eq_comm]

/-- Read after write: the same address gives the byte written, every other address what it gave. -/
@[simp] theorem Memory.read_write (c : Config) (m : Memory) (a p : Nat) (b : Byte) :
    Memory.read c (Memory.write c m a b) p = if p = a then b else Memory.read c m p := by
  unfold Memory.read Memory.write
  split_ifs with h1 h2 h2
  · simp [h1, h2]
  · simp [h2]
  · simp [Memory.lookup_insert, h2]
  · simp [Memory.lookup_insert, h2]

@[simp] theorem State.readByte_writeByte (s : State) (a p : Nat) (b : Byte) :
    (s.writeByte a b).readByte p = if p = a then b else s.readByte p := Memory.read_write _ _ _ _ _

/-! ## The canonical form -/

theorem Memory.risesFrom_mono {m : Memory} {lo lo' : Nat} (h : lo' ≤ lo) (hm : Memory.risesFrom lo m = true) :
    Memory.risesFrom lo' m = true := by
  cases m with
  | nil => rfl
  | cons c rest => simp_all [Memory.risesFrom]; omega

theorem Memory.risesFrom_erase {m : Memory} {lo : Nat} (a : Nat) (hm : Memory.risesFrom lo m = true) :
    Memory.risesFrom lo (Memory.erase m a) = true := by
  induction m generalizing lo with
  | nil => rfl
  | cons c rest ih =>
    simp only [Memory.risesFrom, Bool.and_eq_true, decide_eq_true_eq] at hm
    simp only [Memory.erase]
    split_ifs
    · exact Memory.risesFrom_mono (by omega) (ih hm.2)
    · simp [Memory.risesFrom, hm.1, ih hm.2]

theorem Memory.risesFrom_insert {m : Memory} {lo a : Nat} (b : Byte) (hlo : lo ≤ a) (ha : Memory.lookup m a = none)
    (hm : Memory.risesFrom lo m = true) : Memory.risesFrom lo (Memory.insert m a b) = true := by
  induction m generalizing lo with
  | nil => simp [Memory.insert, Memory.risesFrom, hlo]
  | cons c rest ih =>
    simp only [Memory.risesFrom, Bool.and_eq_true, decide_eq_true_eq] at hm
    simp only [Memory.lookup] at ha
    split_ifs at ha with hc
    simp only [Memory.insert]
    split_ifs with h1
    · simp only [Memory.risesFrom, Bool.and_eq_true, decide_eq_true_eq]
      exact ⟨hlo, by omega, hm.2⟩
    · simp only [Memory.risesFrom, Bool.and_eq_true, decide_eq_true_eq]
      exact ⟨hm.1, ih (by omega) ha hm.2⟩

theorem Memory.mem_erase {m : Memory} {a : Nat} {e : Host.Cell} (h : e ∈ Memory.erase m a) : e ∈ m := by
  induction m with
  | nil => exact h
  | cons c rest ih =>
    simp only [Memory.erase] at h
    split_ifs at h
    · exact List.mem_cons_of_mem _ (ih h)
    · rcases List.mem_cons.1 h with rfl | h
      · exact List.mem_cons_self
      · exact List.mem_cons_of_mem _ (ih h)

theorem Memory.mem_insert {m : Memory} {a : Nat} {b : Byte} {e : Host.Cell} (h : e ∈ Memory.insert m a b) :
    e = (a, b) ∨ e ∈ m := by
  induction m with
  | nil => simpa [Memory.insert] using h
  | cons c rest ih =>
    simp only [Memory.insert] at h
    split_ifs at h
    · simpa using h
    · rcases List.mem_cons.1 h with rfl | h
      · simp
      · rcases ih h with h | h <;> simp [h]

theorem Memory.wf_iff (c : Config) (m : Memory) : Memory.wf c m = true ↔
    Memory.risesFrom 0 m = true ∧ ∀ e ∈ m, e.1 < memSize ∧ e.2 ≠ resetByte c e.1 := by
  simp [Memory.wf, List.all_eq_true]

/-- A store inside the memory array keeps the canonical form. -/
theorem Memory.wf_write {c : Config} {m : Memory} {a : Nat} (b : Byte) (ha : a < memSize) (hm : Memory.wf c m = true) :
    Memory.wf c (Memory.write c m a b) = true := by
  rw [Memory.wf_iff] at hm ⊢
  unfold Memory.write
  split_ifs with hb
  · exact ⟨Memory.risesFrom_erase a hm.1, fun e he => hm.2 e (Memory.mem_erase he)⟩
  · refine ⟨Memory.risesFrom_insert b (Nat.zero_le _) (by simp) (Memory.risesFrom_erase a hm.1), ?_⟩
    intro e he
    rcases Memory.mem_insert he with rfl | he
    · exact ⟨ha, hb⟩
    · exact hm.2 e (Memory.mem_erase he)

@[simp] theorem Memory.wf_nil (c : Config) : Memory.wf c [] = true := rfl

/-- Reset memory has the canonical form. -/
theorem State.wf_mem_resetWith (c : Config) : Memory.wf (State.resetWith c).cfg (State.resetWith c).mem = true := rfl

/-! ## Stores of several bytes -/

/-- A store of several bytes changes memory and nothing else. -/
theorem State.writeBytes_only_mem (s : State) (a : Nat) (bs : List Byte) :
    s.writeBytes a bs = { s with mem := (s.writeBytes a bs).mem } := by
  induction bs generalizing s a with
  | nil => rfl
  | cons b rest ih => simp only [State.writeBytes]; rw [ih]; rfl

/-- What every address reads as after a store of several bytes: the byte of its position inside the stored range, as before
outside it. -/
theorem State.readByte_writeBytes (s : State) (a p : Nat) (bs : List Byte) :
    (s.writeBytes a bs).readByte p = if a ≤ p then (bs[p - a]?).getD (s.readByte p) else s.readByte p := by
  induction bs generalizing s a with
  | nil => simp [State.writeBytes]
  | cons b rest ih =>
    simp only [State.writeBytes, ih, State.readByte_writeByte]
    rcases Nat.lt_trichotomy p a with h | h | h
    · simp [show ¬ a + 1 ≤ p by omega, show ¬ a ≤ p by omega, show ¬ p = a by omega]
    · subst h
      simp
    · obtain ⟨d, rfl⟩ : ∃ d, p = a + 1 + d := ⟨p - (a + 1), by omega⟩
      simp [show a + 1 + d - a = d + 1 by omega, show a + 1 + d ≠ a by omega, show a ≤ a + 1 + d by omega]

/-- A store of several bytes inside the memory array keeps the canonical form. -/
theorem State.wf_writeBytes {s : State} {a : Nat} (bs : List Byte) (ha : a + bs.length ≤ memSize)
    (hm : Memory.wf s.cfg s.mem = true) : Memory.wf s.cfg (s.writeBytes a bs).mem = true := by
  induction bs generalizing s a with
  | nil => exact hm
  | cons b rest ih =>
    simp only [List.length_cons] at ha
    exact ih (s := s.writeByte a b) (by omega) (Memory.wf_write b (by omega) hm)

end Sys2Proof.Machine
end

