-- ==== Sys2Proof/Laws/Ops.lean ====
section
/-! SUPPORT. What the shared operations do: access checks, fetch, stack, timers, random input, keys, digits, flags. -/

namespace Sys2Proof.Machine

/-! ## Access checks -/

/-- An access is without fault exactly when it touches no byte or stays inside the array (R173). -/
theorem accessFault_eq_none {base count : Nat} {kind : AccessKind} :
    accessFault base count kind = none ↔ count = 0 ∨ base + count ≤ memSize := by
  unfold accessFault
  split_ifs with h <;> simp [h]

/-- The fault of an access that leaves the array. -/
theorem accessFault_eq_some {base count : Nat} {kind : AccessKind} {f : Fault} :
    accessFault base count kind = some f ↔
      (0 < count ∧ memSize < base + count) ∧ f = .outOfBoundsAccess (max base memSize) kind := by
  unfold accessFault
  split_ifs with h
  · simp; omega
  · simp only [Option.some.injEq, eq_comm]; constructor
    · intro h'; exact ⟨by omega, h'⟩
    · exact fun h' => h'.2

theorem keyIndexFault_eq_none {b : Byte} : keyIndexFault b = none ↔ b.toNat ≤ 15 := by
  unfold keyIndexFault; split_ifs with h <;> simp <;> omega

theorem keyIndexFault_eq_some {b : Byte} {f : Fault} :
    keyIndexFault b = some f ↔ 15 < b.toNat ∧ f = .keyIndexOutOfRange b := by
  unfold keyIndexFault; split_ifs with h <;> simp [h, eq_comm]

@[simp] theorem State.checked_none (s t : State) : s.checked none t = .next t := rfl
@[simp] theorem State.checked_some (s t : State) (f : Fault) : s.checked (some f) t = .next (s.raise f) := rfl

/-- A checked handler answers next, with its fault latched or with its effect. -/
theorem State.checked_cases (s t : State) (f : Option Fault) :
    (f = none ∧ s.checked f t = .next t) ∨ ∃ e, f = some e ∧ s.checked f t = .next (s.raise e) := by
  cases f <;> simp

/-! ## Fetch -/

/-- The fetch succeeds exactly when `pc <= 0xFFE`, with the big-endian word at `pc`; else it gives the lowest address above
0xFFF (R91). -/
theorem State.fetch_eq (s : State) : s.fetch =
    if s.pc.toNat ≤ 0xFFE then .ok (s.wordAt s.pc.toNat)
    else .error (.outOfBoundsAccess (max s.pc.toNat 0x1000) .fetch) := by
  unfold State.fetch State.memRead accessFault State.wordAt memSize
  by_cases h1 : s.pc.toNat ≤ 0xFFE
  · simp [h1, show s.pc.toNat + 1 ≤ 4096 by omega, show s.pc.toNat + 1 + 1 ≤ 4096 by omega]
  · by_cases h2 : s.pc.toNat = 0xFFF
    · simp [h2]
    · have h3 : max s.pc.toNat 4096 = s.pc.toNat := by omega
      simp [h1, show ¬ s.pc.toNat + 1 ≤ 4096 by omega, h3]

/-! ## Stack -/

theorem State.push_eq {s : State} (a : Word) (h : s.sp.val < 16) :
    s.push a = some { s with stk := s.stk.set s.sp.val a h, sp := ⟨s.sp.val + 1, by omega⟩ } := by
  simp [State.push, h]

theorem State.push_full {s : State} (a : Word) (h : s.sp.val = 16) : s.push a = none := by simp [State.push, h]

theorem State.pop_eq {s : State} (h : s.sp.val ≠ 0) :
    s.pop = some (s.stk[s.sp.val - 1]'(by have := s.sp.isLt; omega),
      { s with sp := ⟨s.sp.val - 1, by have := s.sp.isLt; omega⟩ }) := by
  simp [State.pop, h]

theorem State.pop_empty {s : State} (h : s.sp.val = 0) : s.pop = none := by simp [State.pop, h]

/-! ## Timers, flags, digits, addresses -/

/-- The tick lowers a timer by one, never below zero (R28). -/
@[simp] theorem decTimer_toNat (t : Byte) : (decTimer t).toNat = t.toNat - 1 := by
  unfold decTimer
  split_ifs with h
  · simp [h]
  · have : t.toNat ≠ 0 := fun h' => h (BitVec.eq_of_toNat_eq (by simpa using h'))
    rw [BitVec.toNat_sub_of_le (by simp [BitVec.le_def]; omega)]; rfl

@[simp] theorem flagByte_toNat (c : Bool) : (flagByte c).toNat = if c then 1 else 0 := by cases c <;> rfl

theorem flagByte_or (a b : Bool) : flagByte a ||| flagByte b = flagByte (a || b) := by cases a <;> cases b <;> rfl

@[simp] theorem zext16_toNat (b : Byte) : (zext16 b).toNat = b.toNat := by simp [zext16]; omega

@[simp] theorem glyphAddress_toNat (c : Config) (b : Byte) :
    (glyphAddress c b).toNat = c.fontBase.val + 5 * b.toNat := by
  have := c.fontBase.isLt; have := b.isLt
  simp [glyphAddress]; omega

theorem hundredsDigit_toNat (b : Byte) : (hundredsDigit b).toNat = b.toNat / 100 := by
  have := b.isLt; simp [hundredsDigit]; omega

theorem tensDigit_toNat (b : Byte) : (tensDigit b).toNat = b.toNat / 10 % 10 := by
  simp [tensDigit]; omega

theorem onesDigit_toNat (b : Byte) : (onesDigit b).toNat = b.toNat % 10 := by
  simp [onesDigit]; omega

@[simp] theorem State.indexed_zero (s : State) : s.indexed 0 = s.i.toNat := rfl

/-! ## Registers in a range -/

theorem mem_regsUpTo {x r : Reg} : r ∈ regsUpTo x ↔ r ≤ x := by
  revert x r; decide

theorem regsUpTo_length (x : Reg) : (regsUpTo x).length = x.val + 1 := by simp [regsUpTo]

theorem regsUpTo_getElem? (x : Reg) (j : Nat) :
    (regsUpTo x)[j]? = if j ≤ x.val then some (Fin.ofNat 16 j) else none := by
  unfold regsUpTo
  split_ifs with h
  · simp [List.getElem?_range (show j < x.val + 1 by omega)]
  · simp; omega

/-- The load of a list of registers changes registers only. -/
theorem State.foldl_loadReg_only_v (rs : List Reg) (s : State) :
    rs.foldl State.loadReg s = { s with v := (rs.foldl State.loadReg s).v } := by
  induction rs generalizing s with
  | nil => rfl
  | cons r rest ih => simp only [List.foldl_cons]; rw [ih]; rfl

/-- Each register of the list gets the byte at `I` plus its index, the others keep their value. -/
theorem State.getV_foldl_loadReg (rs : List Reg) (s : State) (r : Reg) :
    (rs.foldl State.loadReg s).getV r = if r ∈ rs then s.readByte (s.i.toNat + r.val) else s.getV r := by
  induction rs generalizing s with
  | nil => simp
  | cons q rest ih =>
    simp only [List.foldl_cons, ih, List.mem_cons]
    by_cases h1 : r ∈ rest
    · simp [h1, State.loadReg]
    · by_cases h2 : r = q
      · subst h2; simp [h1, State.loadReg, State.indexed]
      · simp [h1, h2, State.loadReg]

/-! ## Keys -/

/-- The scan finds the highest set key, and none exactly when no key is set (R162). -/
theorem State.scanKeys_eq_some {s : State} {key : Nat} :
    s.scanKeys = some key ↔ key < 16 ∧ s.keySet key = true ∧ ∀ j, key < j → j < 16 → s.keySet j = false := by
  have gen : ∀ n, (List.range n).foldl (fun found k => if s.keySet k then some k else found) none = some key ↔
      key < n ∧ s.keySet key = true ∧ ∀ j, key < j → j < n → s.keySet j = false := by
    intro n
    induction n with
    | zero => simp
    | succ n ih =>
      rw [List.range_succ, List.foldl_append]
      simp only [List.foldl_cons, List.foldl_nil]
      by_cases h : s.keySet n = true
      · simp only [h, if_true, Option.some.injEq]
        constructor
        · rintro rfl; exact ⟨by omega, h, by omega⟩
        · rintro ⟨h1, -, h3⟩
          by_contra hne
          have := h3 n (by omega) (by omega)
          simp [h] at this
      · simp only [h]
        rw [if_neg (by simp), ih]
        constructor
        · rintro ⟨h1, h2, h3⟩
          refine ⟨by omega, h2, fun j hj hj' => ?_⟩
          by_cases hjn : j = n
          · subst hjn; simpa using h
          · exact h3 j hj (by omega)
        · rintro ⟨h1, h2, h3⟩
          have : key ≠ n := by rintro rfl; exact h h2
          exact ⟨by omega, h2, fun j hj hj' => h3 j hj (by omega)⟩
  exact gen 16

theorem State.scanKeys_eq_none {s : State} : s.scanKeys = none ↔ ∀ j, j < 16 → s.keySet j = false := by
  have gen : ∀ n, (List.range n).foldl (fun found k => if s.keySet k then some k else found) none = none ↔
      ∀ j, j < n → s.keySet j = false := by
    intro n
    induction n with
    | zero => simp
    | succ n ih =>
      rw [List.range_succ, List.foldl_append]
      simp only [List.foldl_cons, List.foldl_nil]
      by_cases h : s.keySet n = true
      · simp only [h, if_true]
        constructor
        · intro h'; cases h'
        · intro h'; have := h' n (by omega); simp [h] at this
      · simp only [h]
        rw [if_neg (by simp), ih]
        constructor
        · intro h' j hj
          by_cases hjn : j = n
          · subst hjn; simpa using h
          · exact h' j (by omega)
        · exact fun h' j hj => h' j (by omega)
  exact gen 16

end Sys2Proof.Machine
end

