-- ==== Sys2Proof/Laws/Display.lean ====
section
/-! SUPPORT. The framebuffer: pixels after a toggle and a clear, and what drawing leaves unchanged. -/

namespace Sys2Proof.Machine

/-- A pixel after a toggle: the toggled one is inverted, every other one is as before. -/
@[simp] theorem Framebuffer.pixel_toggle (fb : Framebuffer) (cx px : Fin 64) (cy py : Fin 32) :
    (fb.toggle cx cy).pixel px py = (fb.pixel px py ^^ decide (px = cx ∧ py = cy)) := by
  unfold Framebuffer.pixel Framebuffer.toggle
  simp only [Fin.getElem_fin, Vector.getElem_set]
  by_cases hy : py = cy
  · subst hy
    simp [Fin.ext_iff, eq_comm]
  · have : cy.val ≠ py.val := fun h => hy (Fin.ext h.symm)
    simp [this, hy]

@[simp] theorem Framebuffer.pixel_clear (px : Fin 64) (py : Fin 32) : Framebuffer.clear.pixel px py = false := by
  simp [Framebuffer.pixel, Framebuffer.clear]

/-- Two framebuffers are equal when all pixels agree. -/
theorem Framebuffer.ext_pixel {f g : Framebuffer} (h : ∀ cx cy, f.pixel cx cy = g.pixel cx cy) : f = g := by
  apply Vector.ext
  intro j hj
  apply BitVec.eq_of_getLsbD_eq
  intro k hk
  exact h ⟨k, hk⟩ ⟨j, hj⟩

/-- `VF` and the framebuffer are all that may differ. -/
def DrawFrame (s t : State) : Prop := t = { s with v := t.v, fb := t.fb } ∧ ∀ r, r ≠ Reg.flag → t.getV r = s.getV r

theorem DrawFrame.refl (s : State) : DrawFrame s s := ⟨rfl, fun _ _ => rfl⟩

theorem DrawFrame.trans {s t u : State} (h1 : DrawFrame s t) (h2 : DrawFrame t u) : DrawFrame s u := by
  refine ⟨?_, fun r hr => (h2.2 r hr).trans (h1.2 r hr)⟩
  obtain ⟨a, -⟩ := h1
  obtain ⟨b, -⟩ := h2
  rw [a] at b
  exact b

theorem DrawFrame.setFlag (s : State) (c : Bool) : DrawFrame s (s.setFlag c) :=
  ⟨rfl, fun r hr => by simp [hr]⟩

theorem DrawFrame.hitPixel (s : State) (cx : Fin 64) (cy : Fin 32) : DrawFrame s (s.hitPixel cx cy) :=
  ⟨rfl, fun r hr => by simp [hr]⟩

theorem DrawFrame.drawBit (x : Reg) (b : Byte) (cy : Fin 32) (s : State) (bit : Nat) :
    DrawFrame s (State.drawBit x b cy s bit) := by
  unfold State.drawBit
  split_ifs
  · exact DrawFrame.hitPixel _ _ _
  · exact DrawFrame.refl s

/-- A fold of steps that each keep the frame keeps the frame. -/
theorem DrawFrame.foldl {α : Type} {f : State → α → State} (hf : ∀ s a, DrawFrame s (f s a)) (l : List α) (s : State) :
    DrawFrame s (l.foldl f s) := by
  induction l generalizing s with
  | nil => exact DrawFrame.refl s
  | cons a rest ih => exact (hf s a).trans (ih _)

theorem DrawFrame.drawRow (x y : Reg) (s : State) (row : Nat) : DrawFrame s (State.drawRow x y s row) :=
  DrawFrame.foldl (fun s bit => DrawFrame.drawBit _ _ _ s bit) _ _

/-- Drawing changes `VF` and the framebuffer and nothing else (R151). -/
theorem DrawFrame.drawSprite (s : State) (x y : Reg) (n : Nat) : DrawFrame s (s.drawSprite x y n) :=
  (DrawFrame.setFlag s false).trans (DrawFrame.foldl (fun s row => DrawFrame.drawRow x y s row) _ _)

theorem DrawFrame.readByte {s t : State} (h : DrawFrame s t) (p : Nat) : t.readByte p = s.readByte p := by
  rw [h.1]; rfl

theorem DrawFrame.i {s t : State} (h : DrawFrame s t) : t.i = s.i := by rw [h.1]

end Sys2Proof.Machine
end

