-- ==== Sys2Proof/Laws/Step.lean ====
section
/-! SUPPORT. What a step can do, said once: held, fetch fault, no-op, or a handler and the end of the step. -/

namespace Sys2Proof.Machine

theorem step_faulted {s : State} {f : Fault} (h : s.fault = some f) : step s = .next s := by simp [step, h]

theorem step_fetchFault {s : State} (h : s.fault = none) (hp : 0xFFE < s.pc.toNat) :
    step s = .next (s.raise (.outOfBoundsAccess (max s.pc.toNat 0x1000) .fetch)) := by
  simp [step, h, State.fetch_eq, show ¬ s.pc.toNat ≤ 0xFFE by omega]

theorem step_word {s : State} (h : s.fault = none) (hp : s.pc.toNat ≤ 0xFFE) :
    step s = runWord s (s.wordAt s.pc.toNat) := by
  simp [step, h, State.fetch_eq, hp]

theorem runWord_unmatched {s : State} {op : Word} (h : decodeWord op = none) :
    runWord s op = .next s.advancePc.tick := by simp [runWord, h]

theorem runWord_matched {s : State} {op : Word} {i : Instr} (h : decodeWord op = some i) :
    runWord s op = s.finish (exec i s.advancePc) := by simp [runWord, h]

theorem State.finish_next {s t : State} (h : t.fault = none) : s.finish (.next t) = .next t.tick := by
  simp [State.finish, h]

theorem State.finish_raised {s t : State} {f : Fault} (h : t.fault = some f) :
    s.finish (.next t) = .next (s.raise f) := by simp [State.finish, h]

/-- A handler raises a fault, changing only the latch, or keeps the latch as it was. -/
theorem exec_fault_cases {i : Instr} {s t : State} (h : exec i s = .next t) :
    (∃ f, t = s.raise f) ∨ t.fault = s.fault := by
  cases i with
  | ret =>
    by_cases hs : s.sp.val = 0
    · simp only [exec, execRet, State.pop_empty hs, Host.Outcome.next.injEq] at h
      exact .inl ⟨_, h.symm⟩
    · simp only [exec, execRet, State.pop_eq hs, Host.Outcome.next.injEq] at h
      exact .inr (by rw [← h]; rfl)
  | call nnn =>
    by_cases hs : s.sp.val < 16
    · simp only [exec, execCall, State.push_eq _ hs, Host.Outcome.next.injEq] at h
      exact .inr (by rw [← h]; rfl)
    · have := s.sp.isLt
      simp only [exec, execCall, State.push_full _ (show s.sp.val = 16 by omega), Host.Outcome.next.injEq] at h
      exact .inl ⟨_, h.symm⟩
  | drw x y n =>
    simp only [exec, execDrw] at h
    rcases s.checked_cases (s.drawSprite x y n) (s.indexFault n .sprite) with ⟨-, h'⟩ | ⟨e, -, h'⟩
    · rw [h'] at h; cases h
      exact .inr (by rw [(DrawFrame.drawSprite s x y n).1])
    · rw [h'] at h; cases h
      exact .inl ⟨e, rfl⟩
  | skp x =>
    simp only [exec, execSkp] at h
    rcases s.checked_cases (s.skipIf (s.keySet (s.getV x).toNat)) (keyIndexFault (s.getV x)) with ⟨-, h'⟩ | ⟨e, -, h'⟩
    · rw [h'] at h; cases h; exact .inr (by simp)
    · rw [h'] at h; cases h; exact .inl ⟨e, rfl⟩
  | sknp x =>
    simp only [exec, execSknp] at h
    rcases s.checked_cases (s.skipIf (!s.keySet (s.getV x).toNat)) (keyIndexFault (s.getV x)) with ⟨-, h'⟩ | ⟨e, -, h'⟩
    · rw [h'] at h; cases h; exact .inr (by simp)
    · rw [h'] at h; cases h; exact .inl ⟨e, rfl⟩
  | ldVxK x =>
    simp only [exec, execLdVxK] at h
    split at h <;> cases h <;> exact .inr (by simp)
  | ldB x =>
    simp only [exec, execLdB] at h
    rcases s.checked_cases (s.storeDigits (s.getV x)) (s.indexFault 3 .bcd) with ⟨-, h'⟩ | ⟨e, -, h'⟩
    · rw [h'] at h; cases h; exact .inr (by rw [State.storeDigits, State.writeBytes_only_mem])
    · rw [h'] at h; cases h; exact .inl ⟨e, rfl⟩
  | ldMemVx x =>
    simp only [exec, execLdMemVx] at h
    rcases s.checked_cases (s.dumpRegs x) (s.indexFault (x.val + 1) .dump) with ⟨-, h'⟩ | ⟨e, -, h'⟩
    · rw [h'] at h; cases h; exact .inr (by rw [State.dumpRegs, State.writeBytes_only_mem])
    · rw [h'] at h; cases h; exact .inl ⟨e, rfl⟩
  | ldVxMem x =>
    simp only [exec, execLdVxMem] at h
    rcases s.checked_cases (s.loadRegs x) (s.indexFault (x.val + 1) .load) with ⟨-, h'⟩ | ⟨e, -, h'⟩
    · rw [h'] at h; cases h; exact .inr (by rw [State.loadRegs, State.foldl_loadReg_only_v])
    · rw [h'] at h; cases h; exact .inl ⟨e, rfl⟩
  | _ =>
    cases h
    exact .inr (by simp)

end Sys2Proof.Machine
end

