-- ==== Sys2Proof/Laws/Exec.lean ====
section
/-! SUPPORT. What the handlers with more than one path do on each path, and the inversion of a whole step. -/

namespace Sys2Proof.Machine

/-! ## Call and return -/

theorem exec_call {s : State} (nnn : Word) (h : s.sp.val < 16) : exec (.call nnn) s =
    .next { s with stk := s.stk.set s.sp.val s.pc h, sp := ⟨s.sp.val + 1, by omega⟩, pc := nnn } := by
  simp only [exec, execCall, State.push_eq _ h]; rfl

theorem exec_call_full {s : State} (nnn : Word) (h : s.sp.val = 16) :
    exec (.call nnn) s = .next (s.raise .stackOverflow) := by
  simp only [exec, execCall, State.push_full _ h]

theorem exec_ret {s : State} (h : s.sp.val ≠ 0) : exec .ret s =
    .next { s with pc := s.stk[s.sp.val - 1]'(by have := s.sp.isLt; omega),
                   sp := ⟨s.sp.val - 1, by have := s.sp.isLt; omega⟩ } := by
  simp only [exec, execRet, State.pop_eq h]; rfl

theorem exec_ret_empty {s : State} (h : s.sp.val = 0) : exec .ret s = .next (s.raise .stackUnderflow) := by
  simp only [exec, execRet, State.pop_empty h]

/-! ## Accesses through `I` -/

/-- The check of an access through `I` passes exactly when no byte is touched or all stay inside the array (R173). -/
theorem State.indexFault_eq_none {s : State} {n : Nat} {kind : AccessKind} :
    s.indexFault n kind = none ↔ n = 0 ∨ s.i.toNat + n ≤ 0x1000 := accessFault_eq_none

/-- The fault of an access through `I`. -/
theorem State.indexFault_eq_some {s : State} {n : Nat} {kind : AccessKind} {f : Fault} :
    s.indexFault n kind = some f ↔
      (0 < n ∧ 0x1000 < s.i.toNat + n) ∧ f = .outOfBoundsAccess (max s.i.toNat 0x1000) kind := accessFault_eq_some

/-- A checked handler that leaves the latch empty passed its check and had its effect. -/
theorem State.checked_inv {s t u : State} {f : Option Fault} (h : s.checked f t = .next u) (hu : u.fault = none) :
    f = none ∧ u = t := by
  cases f with
  | none => simp at h; exact ⟨rfl, h.symm⟩
  | some f => simp at h; subst h; simp at hu

/-! ## The wait for a key -/

theorem exec_ldVxK_some {s : State} {x : Reg} {key : Nat} (h : s.scanKeys = some key) :
    exec (.ldVxK x) s = .next (s.setV x (BitVec.ofNat 8 key)) := by simp [exec, execLdVxK, h]

theorem exec_ldVxK_none {s : State} {x : Reg} (h : s.scanKeys = none) :
    exec (.ldVxK x) s = .next (s.jumpTo (s.pc - 2)) := by simp [exec, execLdVxK, h]

/-! ## A whole step -/

/-- Everything a step that answers `t` can have done: nothing, since a fault was latched; latched a fetch fault; run a no-op;
run a handler to its end; or latched the fault a handler raised. -/
theorem step_cases {s t : State} (h : step s = .next t) :
    (s.fault ≠ none ∧ t = s) ∨
    (s.fault = none ∧ 0xFFE < s.pc.toNat ∧
      t = s.raise (.outOfBoundsAccess (max s.pc.toNat 0x1000) .fetch)) ∨
    (s.fault = none ∧ s.pc.toNat ≤ 0xFFE ∧ decodeWord (s.wordAt s.pc.toNat) = none ∧ t = s.advancePc.tick) ∨
    (∃ i u, (s.fault = none ∧ s.pc.toNat ≤ 0xFFE ∧ decodeWord (s.wordAt s.pc.toNat) = some i) ∧
      exec i s.advancePc = .next u ∧
      ((u.fault = none ∧ t = u.tick) ∨ ∃ f, u = s.advancePc.raise f ∧ t = s.raise f)) := by
  rcases hf : s.fault with _ | f
  · by_cases hp : s.pc.toNat ≤ 0xFFE
    · rcases hd : decodeWord (s.wordAt s.pc.toNat) with _ | i
      · rw [step_word hf hp, runWord_unmatched hd] at h; cases h
        exact .inr (.inr (.inl ⟨rfl, hp, rfl, rfl⟩))
      · rw [step_word hf hp, runWord_matched hd] at h
        rcases hu : exec i s.advancePc with u | f | r
        · refine .inr (.inr (.inr ⟨i, u, ⟨rfl, hp, rfl⟩, hu, ?_⟩))
          rw [hu] at h
          rcases exec_fault_cases hu with ⟨f, rfl⟩ | h'
          · rw [State.finish_raised rfl] at h; cases h
            exact .inr ⟨f, rfl, rfl⟩
          · have h0 : u.fault = none := by rw [h']; exact hf
            rw [State.finish_next h0] at h; cases h
            exact .inl ⟨h0, rfl⟩
        · rw [hu] at h; cases h
        · rw [hu] at h; cases h
    · rw [step_fetchFault hf (by omega)] at h; cases h
      exact .inr (.inl ⟨rfl, by omega, rfl⟩)
  · rw [step_faulted hf] at h; cases h
    exact .inl ⟨by simp, rfl⟩

end Sys2Proof.Machine
end

