-- ==== Sys2Proof/Laws/PerInstr.lean ====
section
/-! SUPPORT. Facts about every instruction as syntax, one lemma per constructor. Family `EncodesInRow`: an instruction's word
selects its own row of the opcode map. -/

namespace Sys2Proof.Laws.EncodesInRow

/-- The instruction's word selects a row of the opcode map that carries the instruction's mnemonic (R74). -/
def Statement (i : Instr) : Prop := ∃ r ∈ opcodeRows, r.mnemonic = i.mnemonic ∧ r.selects (encode i) = true

/-- A packed word selects a row when it agrees with it nibble by nibble. -/
theorem selects_pack {r : Row} {a b c d : BitVec 4}
    (h1 : a &&& nibble1 r.mask = nibble1 r.matchBits) (h2 : b &&& nibble2 r.mask = nibble2 r.matchBits)
    (h3 : c &&& nibble3 r.mask = nibble3 r.matchBits) (h4 : d &&& nibble4 r.mask = nibble4 r.matchBits) :
    r.selects (packNibbles a b c d) = true := by
  have key : packNibbles a b c d &&& r.mask = r.matchBits := by
    rw [← packNibbles_nibbles r.mask, ← packNibbles_nibbles r.matchBits, ← h1, ← h2, ← h3, ← h4]
    apply BitVec.eq_of_getLsbD_eq; intro j hj
    simp only [BitVec.getLsbD_and, getLsbD_packNibbles]
    split_ifs <;> rfl
  simp [Row.selects, key]

theorem cls : Statement (.cls) :=
  ⟨⟨"CLS", 0x00E0, 0xFFFF⟩, by decide, rfl, selects_pack (by simp [nibble1]) (by simp [nibble2]) (by simp [nibble3]) (by simp [nibble4])⟩

theorem ret : Statement (.ret) :=
  ⟨⟨"RET", 0x00EE, 0xFFFF⟩, by decide, rfl, selects_pack (by simp [nibble1]) (by simp [nibble2]) (by simp [nibble3]) (by simp [nibble4])⟩

theorem jp (nnn : Word) : Statement (.jp nnn) :=
  ⟨⟨"JP_nnn", 0x1000, 0xF000⟩, by decide, rfl, selects_pack (by simp [nibble1]) (by simp [nibble2]) (by simp [nibble3]) (by simp [nibble4])⟩

theorem call (nnn : Word) : Statement (.call nnn) :=
  ⟨⟨"CALL_nnn", 0x2000, 0xF000⟩, by decide, rfl, selects_pack (by simp [nibble1]) (by simp [nibble2]) (by simp [nibble3]) (by simp [nibble4])⟩

theorem seImm (x : Reg) (kk : Byte) : Statement (.seImm x kk) :=
  ⟨⟨"SE_Vx__kk", 0x3000, 0xF000⟩, by decide, rfl, selects_pack (by simp [nibble1]) (by simp [nibble2]) (by simp [nibble3]) (by simp [nibble4])⟩

theorem sneImm (x : Reg) (kk : Byte) : Statement (.sneImm x kk) :=
  ⟨⟨"SNE_Vx__kk", 0x4000, 0xF000⟩, by decide, rfl, selects_pack (by simp [nibble1]) (by simp [nibble2]) (by simp [nibble3]) (by simp [nibble4])⟩

theorem seReg (x : Reg) (y : Reg) : Statement (.seReg x y) :=
  ⟨⟨"SE_Vx__Vy", 0x5000, 0xF00F⟩, by decide, rfl, selects_pack (by simp [nibble1]) (by simp [nibble2]) (by simp [nibble3]) (by simp [nibble4])⟩

theorem ldImm (x : Reg) (kk : Byte) : Statement (.ldImm x kk) :=
  ⟨⟨"LD_Vx__kk", 0x6000, 0xF000⟩, by decide, rfl, selects_pack (by simp [nibble1]) (by simp [nibble2]) (by simp [nibble3]) (by simp [nibble4])⟩

theorem addImm (x : Reg) (kk : Byte) : Statement (.addImm x kk) :=
  ⟨⟨"ADD_Vx__kk", 0x7000, 0xF000⟩, by decide, rfl, selects_pack (by simp [nibble1]) (by simp [nibble2]) (by simp [nibble3]) (by simp [nibble4])⟩

theorem ldReg (x : Reg) (y : Reg) : Statement (.ldReg x y) :=
  ⟨⟨"LD_Vx__Vy", 0x8000, 0xF00F⟩, by decide, rfl, selects_pack (by simp [nibble1]) (by simp [nibble2]) (by simp [nibble3]) (by simp [nibble4])⟩

theorem orReg (x : Reg) (y : Reg) : Statement (.orReg x y) :=
  ⟨⟨"OR_Vx__Vy", 0x8001, 0xF00F⟩, by decide, rfl, selects_pack (by simp [nibble1]) (by simp [nibble2]) (by simp [nibble3]) (by simp [nibble4])⟩

theorem andReg (x : Reg) (y : Reg) : Statement (.andReg x y) :=
  ⟨⟨"AND_Vx__Vy", 0x8002, 0xF00F⟩, by decide, rfl, selects_pack (by simp [nibble1]) (by simp [nibble2]) (by simp [nibble3]) (by simp [nibble4])⟩

theorem xorReg (x : Reg) (y : Reg) : Statement (.xorReg x y) :=
  ⟨⟨"XOR_Vx__Vy", 0x8003, 0xF00F⟩, by decide, rfl, selects_pack (by simp [nibble1]) (by simp [nibble2]) (by simp [nibble3]) (by simp [nibble4])⟩

theorem addReg (x : Reg) (y : Reg) : Statement (.addReg x y) :=
  ⟨⟨"ADD_Vx__Vy", 0x8004, 0xF00F⟩, by decide, rfl, selects_pack (by simp [nibble1]) (by simp [nibble2]) (by simp [nibble3]) (by simp [nibble4])⟩

theorem subReg (x : Reg) (y : Reg) : Statement (.subReg x y) :=
  ⟨⟨"SUB_Vx__Vy", 0x8005, 0xF00F⟩, by decide, rfl, selects_pack (by simp [nibble1]) (by simp [nibble2]) (by simp [nibble3]) (by simp [nibble4])⟩

theorem shr (x : Reg) (y : Reg) : Statement (.shr x y) :=
  ⟨⟨"SHR_Vx", 0x8006, 0xF00F⟩, by decide, rfl, selects_pack (by simp [nibble1]) (by simp [nibble2]) (by simp [nibble3]) (by simp [nibble4])⟩

theorem subnReg (x : Reg) (y : Reg) : Statement (.subnReg x y) :=
  ⟨⟨"SUBN_Vx__Vy", 0x8007, 0xF00F⟩, by decide, rfl, selects_pack (by simp [nibble1]) (by simp [nibble2]) (by simp [nibble3]) (by simp [nibble4])⟩

theorem shl (x : Reg) (y : Reg) : Statement (.shl x y) :=
  ⟨⟨"SHL_Vx", 0x800E, 0xF00F⟩, by decide, rfl, selects_pack (by simp [nibble1]) (by simp [nibble2]) (by simp [nibble3]) (by simp [nibble4])⟩

theorem sneReg (x : Reg) (y : Reg) : Statement (.sneReg x y) :=
  ⟨⟨"SNE_Vx__Vy", 0x9000, 0xF00F⟩, by decide, rfl, selects_pack (by simp [nibble1]) (by simp [nibble2]) (by simp [nibble3]) (by simp [nibble4])⟩

theorem ldI (nnn : Word) : Statement (.ldI nnn) :=
  ⟨⟨"LD_I__nnn", 0xA000, 0xF000⟩, by decide, rfl, selects_pack (by simp [nibble1]) (by simp [nibble2]) (by simp [nibble3]) (by simp [nibble4])⟩

theorem jpV0 (nnn : Word) : Statement (.jpV0 nnn) :=
  ⟨⟨"JP_V0__nnn", 0xB000, 0xF000⟩, by decide, rfl, selects_pack (by simp [nibble1]) (by simp [nibble2]) (by simp [nibble3]) (by simp [nibble4])⟩

theorem rnd (x : Reg) (kk : Byte) : Statement (.rnd x kk) :=
  ⟨⟨"RND_Vx__kk", 0xC000, 0xF000⟩, by decide, rfl, selects_pack (by simp [nibble1]) (by simp [nibble2]) (by simp [nibble3]) (by simp [nibble4])⟩

theorem drw (x : Reg) (y : Reg) (n : Nat) : Statement (.drw x y n) :=
  ⟨⟨"DRW_Vx__Vy__n", 0xD000, 0xF000⟩, by decide, rfl, selects_pack (by simp [nibble1]) (by simp [nibble2]) (by simp [nibble3]) (by simp [nibble4])⟩

theorem skp (x : Reg) : Statement (.skp x) :=
  ⟨⟨"SKP_Vx", 0xE09E, 0xF0FF⟩, by decide, rfl, selects_pack (by simp [nibble1]) (by simp [nibble2]) (by simp [nibble3]) (by simp [nibble4])⟩

theorem sknp (x : Reg) : Statement (.sknp x) :=
  ⟨⟨"SKNP_Vx", 0xE0A1, 0xF0FF⟩, by decide, rfl, selects_pack (by simp [nibble1]) (by simp [nibble2]) (by simp [nibble3]) (by simp [nibble4])⟩

theorem ldVxDt (x : Reg) : Statement (.ldVxDt x) :=
  ⟨⟨"LD_Vx__DT", 0xF007, 0xF0FF⟩, by decide, rfl, selects_pack (by simp [nibble1]) (by simp [nibble2]) (by simp [nibble3]) (by simp [nibble4])⟩

theorem ldVxK (x : Reg) : Statement (.ldVxK x) :=
  ⟨⟨"LD_Vx__K", 0xF00A, 0xF0FF⟩, by decide, rfl, selects_pack (by simp [nibble1]) (by simp [nibble2]) (by simp [nibble3]) (by simp [nibble4])⟩

theorem ldDtVx (x : Reg) : Statement (.ldDtVx x) :=
  ⟨⟨"LD_DT__Vx", 0xF015, 0xF0FF⟩, by decide, rfl, selects_pack (by simp [nibble1]) (by simp [nibble2]) (by simp [nibble3]) (by simp [nibble4])⟩

theorem ldStVx (x : Reg) : Statement (.ldStVx x) :=
  ⟨⟨"LD_ST__Vx", 0xF018, 0xF0FF⟩, by decide, rfl, selects_pack (by simp [nibble1]) (by simp [nibble2]) (by simp [nibble3]) (by simp [nibble4])⟩

theorem addI (x : Reg) : Statement (.addI x) :=
  ⟨⟨"ADD_I__Vx", 0xF01E, 0xF0FF⟩, by decide, rfl, selects_pack (by simp [nibble1]) (by simp [nibble2]) (by simp [nibble3]) (by simp [nibble4])⟩

theorem ldF (x : Reg) : Statement (.ldF x) :=
  ⟨⟨"LD_F__Vx", 0xF029, 0xF0FF⟩, by decide, rfl, selects_pack (by simp [nibble1]) (by simp [nibble2]) (by simp [nibble3]) (by simp [nibble4])⟩

theorem ldB (x : Reg) : Statement (.ldB x) :=
  ⟨⟨"LD_B__Vx", 0xF033, 0xF0FF⟩, by decide, rfl, selects_pack (by simp [nibble1]) (by simp [nibble2]) (by simp [nibble3]) (by simp [nibble4])⟩

theorem ldMemVx (x : Reg) : Statement (.ldMemVx x) :=
  ⟨⟨"LD__I___Vx", 0xF055, 0xF0FF⟩, by decide, rfl, selects_pack (by simp [nibble1]) (by simp [nibble2]) (by simp [nibble3]) (by simp [nibble4])⟩

theorem ldVxMem (x : Reg) : Statement (.ldVxMem x) :=
  ⟨⟨"LD_Vx___I", 0xF065, 0xF0FF⟩, by decide, rfl, selects_pack (by simp [nibble1]) (by simp [nibble2]) (by simp [nibble3]) (by simp [nibble4])⟩

end Sys2Proof.Laws.EncodesInRow
end

