-- ==== Sys2Proof/Tests/Slice0.lean ====
section
/-! SUPPORT. The model's own tests. Expected results are those of spec/95_test_vectors.md (named by its table) or are written
out from the rule cited; words are written out from the opcode map of R74. -/

namespace Sys2Proof.Tests

open Sys2Proof Sys2Proof.Machine

/-! ## Helpers -/

/-- The reset state with a word at 0x200, where the next step fetches. -/
def placed (op : Nat) : State := State.reset.withFetchWord 16 op

/-- `V[0]`, `V[1]`, `V[2]` and `VF` set. -/
def withRegs (s : State) (v0 v1 v2 vf : Byte) : State := (((s.setV 0 v0).setV 1 v1).setV 2 v2).setV 15 vf

/-- One step answers a next state with the property. -/
def stepped (s : State) (p : State → Bool) : Bool :=
  match step s with
  | .next t => p t
  | _ => false

/-- The handler answers a next state with the property. -/
def ran (i : Instr) (s : State) (p : State → Bool) : Bool :=
  match exec i s with
  | .next t => p t
  | _ => false

/-- The pixels that are on, as (column, row), among the first `rows` rows. -/
def pixelsOn (s : State) (rows : List (Fin 32)) : List (Fin 64 × Fin 32) :=
  (rows.flatMap (fun cy => (List.finRange 64).map (fun cx => (cx, cy)))).filter (fun q => s.fb.pixel q.1 q.2)

/-! ## WellFormed: an ill-formed term for each check -/

theorem test_wf_refuses_wide_addresses :
    (Instr.jp 0x1000).wf = false ∧ (Instr.call 0x1000).wf = false ∧ (Instr.ldI 0xFFFF).wf = false ∧
      (Instr.jpV0 0x1000).wf = false ∧ (Instr.jp 0x0FFF).wf = true := by decide

theorem test_wf_refuses_sixteen_rows : (Instr.drw 0 0 16).wf = false ∧ (Instr.drw 0 0 15).wf = true := by decide

/-! ## Decoding: every constructor by a word written out from R74 -/

theorem test_decode_control :
    decodeWord 0x00E0 = some .cls ∧ decodeWord 0x00EE = some .ret ∧
      decodeWord 0x1ABC = some (.jp 0xABC) ∧ decodeWord 0x2DEF = some (.call 0xDEF) ∧
      decodeWord 0x3A44 = some (.seImm 0xA 0x44) ∧ decodeWord 0x4B45 = some (.sneImm 0xB 0x45) ∧
      decodeWord 0x5120 = some (.seReg 1 2) ∧ decodeWord 0x9340 = some (.sneReg 3 4) ∧
      decodeWord 0xB2FE = some (.jpV0 0x2FE) := by decide

theorem test_decode_alu :
    decodeWord 0x6A2B = some (.ldImm 0xA 0x2B) ∧ decodeWord 0x7105 = some (.addImm 1 0x05) ∧
      decodeWord 0x8120 = some (.ldReg 1 2) ∧ decodeWord 0x8121 = some (.orReg 1 2) ∧
      decodeWord 0x8122 = some (.andReg 1 2) ∧ decodeWord 0x8123 = some (.xorReg 1 2) ∧
      decodeWord 0x8124 = some (.addReg 1 2) ∧ decodeWord 0x8125 = some (.subReg 1 2) ∧
      decodeWord 0x8126 = some (.shr 1 2) ∧ decodeWord 0x8127 = some (.subnReg 1 2) ∧
      decodeWord 0x812E = some (.shl 1 2) ∧ decodeWord 0xC10F = some (.rnd 1 0x0F) := by decide

theorem test_decode_index_display_keys :
    decodeWord 0xA123 = some (.ldI 0x123) ∧ decodeWord 0xD125 = some (.drw 1 2 5) ∧
      decodeWord 0xE39E = some (.skp 3) ∧ decodeWord 0xE4A1 = some (.sknp 4) := by decide

theorem test_decode_f_rows :
    decodeWord 0xF107 = some (.ldVxDt 1) ∧ decodeWord 0xF20A = some (.ldVxK 2) ∧
      decodeWord 0xF315 = some (.ldDtVx 3) ∧ decodeWord 0xF418 = some (.ldStVx 4) ∧
      decodeWord 0xF51E = some (.addI 5) ∧ decodeWord 0xF629 = some (.ldF 6) ∧
      decodeWord 0xF733 = some (.ldB 7) ∧ decodeWord 0xF855 = some (.ldMemVx 8) ∧
      decodeWord 0xFF65 = some (.ldVxMem 15) := by decide

/-- One word of each group of R79. -/
theorem test_decode_unmatched :
    decodeWord 0x0123 = none ∧ decodeWord 0x5121 = none ∧ decodeWord 0x8128 = none ∧ decodeWord 0x812F = none ∧
      decodeWord 0x9121 = none ∧ decodeWord 0xE19F = none ∧ decodeWord 0xF100 = none := by decide

theorem test_decode_bytes :
    decode [0x6A, 0x2B, 0x00] = .ok (.ldImm 0xA 0x2B, [0x00]) ∧ decode [0x6A] = .error .truncated ∧
      decode [0x01, 0x23] = .error (.unmatched 0x0123) ∧ decodeTableWord 16 0x00EE = some .ret := by decide

/-- The words written out nibble by nibble from the formats of R75. -/
theorem test_encode :
    encode (.jp 0xABC) = 0x1ABC ∧ encode (.ldImm 0xA 0x2B) = 0x6A2B ∧ encode (.shl 1 2) = 0x812E ∧
      encode (.drw 0xA 0xB 5) = 0xDAB5 ∧ encode (.sknp 4) = 0xE4A1 ∧ encode (.ldVxMem 15) = 0xFF65 := by decide

/-! ## Reset and sequencer (tables 2.1 and 2.7) -/

/-- R-1: glyph 0, glyph F, the first byte after the font, a byte of the program area. -/
theorem test_reset_memory :
    (List.range 5).map State.reset.readByte = [0xF0, 0x90, 0x90, 0x90, 0xF0] ∧
      (List.range 5).map (fun j => State.reset.readByte (0x4B + j)) = [0xF0, 0x80, 0xF0, 0x80, 0x80] ∧
      State.reset.readByte 0x50 = 0 ∧ State.reset.readByte 0xFFF = 0 ∧ State.reset.pc = 0x200 := by decide

theorem test_unmatched_ticks :
    stepped { placed 0x0123 with dt := 3, st := 1 } (fun t => t.pc == 0x202 && t.dt == 2 && t.st == 0) = true := by
  decide

theorem test_fetch_fault_at_0xFFF :
    stepped { State.reset with pc := 0xFFF, dt := 4 } (fun t => t ==
      { State.reset with pc := 0xFFF, dt := 4, fault := some (.outOfBoundsAccess 0x1000 .fetch) }) = true := by decide

theorem test_faulted_step_changes_nothing :
    stepped { placed 0x6A2B with dt := 5, fault := some .stackOverflow } (fun t => t ==
      { placed 0x6A2B with dt := 5, fault := some .stackOverflow }) = true := by decide

theorem test_odd_pc :
    stepped (({ State.reset with pc := 0x201 } : State).withFetchWord 16 0x6177) (fun t =>
      t.getV 1 == 0x77 && t.pc == 0x203) = true := by decide

/-! ## Control flow (table 2.2) -/

theorem test_ret :
    stepped { placed 0x00EE with sp := 1, stk := (Vector.replicate 16 0).set 0 0x345 } (fun t =>
      t.pc == 0x345 && t.sp == 0) = true := by decide

theorem test_ret_underflow :
    stepped (placed 0x00EE) (fun t => t.fault == some .stackUnderflow && t.pc == 0x200) = true := by decide

theorem test_jp : stepped (placed 0x1ABC) (fun t => t.pc == 0xABC) = true := by decide

theorem test_call_last_entry :
    stepped { placed 0x2ABC with sp := 15 } (fun t => t.pc == 0xABC && t.sp == 16 && t.stk[15] == 0x202) = true := by
  decide

theorem test_call_overflow :
    stepped { placed 0x2ABC with sp := 16 } (fun t =>
      t == { placed 0x2ABC with sp := 16, fault := some .stackOverflow }) = true := by decide

theorem test_skips_immediate :
    stepped (withRegs (placed 0x3144) 0 0x44 0 0) (fun t => t.pc == 0x204) = true ∧
      stepped (withRegs (placed 0x4144) 0 0x44 0 0) (fun t => t.pc == 0x202) = true := by decide

theorem test_skips_register :
    stepped (withRegs (placed 0x5120) 0 7 8 0) (fun t => t.pc == 0x202) = true ∧
      stepped (withRegs (placed 0x9120) 0 7 8 0) (fun t => t.pc == 0x204) = true := by decide

theorem test_skip_at_top :
    stepped (({ State.reset with pc := 0xFFE } : State).withFetchWord 16 0x3000) (fun t =>
      t.pc == 0x1002 && t.fault == none) = true := by decide

theorem test_jpV0_does_not_wrap :
    stepped (withRegs (placed 0xBFFF) 0xFF 0 0 0) (fun t => t.pc == 0x10FE && t.fault == none) = true := by decide

/-! ## Registers and ALU (table 2.3) -/

theorem test_ldImm : stepped (placed 0x6A2B) (fun t => t.getV 10 == 0x2B && t.pc == 0x202) = true := by decide

theorem test_addImm_keeps_flag :
    stepped (withRegs (placed 0x7105) 0 0xFE 0 7) (fun t => t.getV 1 == 3 && t.getV 15 == 7) = true := by decide

theorem test_addImm_to_flag : stepped (withRegs (placed 0x7F01) 0 0 0 0xFF) (fun t => t.getV 15 == 0) = true := by decide

theorem test_ldReg : stepped (withRegs (placed 0x8120) 0 0 0x0F 0) (fun t => t.getV 1 == 0x0F) = true := by decide

theorem test_orReg :
    stepped (withRegs (placed 0x8121) 0 0x5A 0x0F 7) (fun t => t.getV 1 == 0x5F && t.getV 15 == 7) = true := by decide

theorem test_andReg :
    stepped (withRegs (placed 0x8122) 0 0x5A 0x0F 7) (fun t => t.getV 1 == 0x0A && t.getV 15 == 7) = true := by decide

theorem test_xorReg :
    stepped (withRegs (placed 0x8123) 0 0x5A 0x0F 7) (fun t => t.getV 1 == 0x55 && t.getV 15 == 7) = true := by decide

theorem test_addReg_carry :
    stepped (withRegs (placed 0x8124) 0 0xFF 1 0xAA) (fun t => t.getV 1 == 0 && t.getV 15 == 1) = true := by decide

theorem test_addReg_to_flag : stepped (withRegs (placed 0x8F14) 0 2 0 0xFF) (fun t => t.getV 15 == 1) = true := by decide

theorem test_subReg_equal_reports_zero :
    stepped (withRegs (placed 0x8125) 0 0x20 0x20 0xAA) (fun t => t.getV 1 == 0 && t.getV 15 == 0) = true := by decide

theorem test_subReg_subtracts_new_flag :
    stepped (withRegs (placed 0x81F5) 0 5 0 3) (fun t => t.getV 1 == 4 && t.getV 15 == 1) = true := by decide

theorem test_shr_ignores_y :
    stepped (withRegs (placed 0x8126) 0 5 0xF0 0) (fun t =>
      t.getV 1 == 2 && t.getV 2 == 0xF0 && t.getV 15 == 1) = true := by decide

theorem test_shr_flag_itself : stepped (withRegs (placed 0x8F06) 0 0 0 3) (fun t => t.getV 15 == 0) = true := by decide

theorem test_subnReg :
    stepped (withRegs (placed 0x8127) 0 0x20 0x10 0) (fun t => t.getV 1 == 0xF0 && t.getV 15 == 0) = true := by decide

theorem test_subnReg_to_flag : stepped (withRegs (placed 0x8F17) 0 0x0A 0 2) (fun t => t.getV 15 == 9) = true := by decide

theorem test_shl :
    stepped (withRegs (placed 0x812E) 0 0x81 0x0F 0) (fun t =>
      t.getV 1 == 2 && t.getV 2 == 0x0F && t.getV 15 == 1) = true := by decide

theorem test_shl_flag_itself : stepped (withRegs (placed 0x8FFE) 0 0 0 0x80) (fun t => t.getV 15 == 2) = true := by decide

theorem test_rnd_masks :
    stepped { placed 0xC10F with rndIn := some 0xA7 } (fun t => t.getV 1 == 7 && t.rndIn == none) = true := by decide

/-! ## Index register and memory (table 2.4) -/

theorem test_ldI : stepped (placed 0xA123) (fun t => t.i == 0x123) = true := by decide

theorem test_addI_keeps_flag :
    stepped { withRegs (placed 0xF11E) 0 0xFF 0 9 with i := 0xFFF } (fun t => t.i == 0x10FE && t.getV 15 == 9) = true := by
  decide

theorem test_addI_wraps :
    stepped { withRegs (placed 0xF11E) 0 2 0 0 with i := 0xFFFF } (fun t => t.i == 1) = true := by decide

theorem test_ldF_whole_byte : stepped (withRegs (placed 0xF129) 0 0xFF 0 0) (fun t => t.i == 0x4FB) = true := by decide

theorem test_ldB :
    stepped { withRegs (placed 0xF133) 0 157 0 0 with i := 0x400 } (fun t =>
      (List.range 4).map (fun j => t.readByte (0x400 + j)) == [1, 5, 7, 0]) = true := by decide

theorem test_ldB_faults_whole :
    stepped { withRegs (placed 0xF133) 0 0x7B 0 0 with i := 0xFFE } (fun t =>
      t.fault == some (.outOfBoundsAccess 0x1000 .bcd) && t.readByte 0xFFE == 0 && t.pc == 0x200) = true := by decide

theorem test_dump :
    stepped { (withRegs (placed 0xF355) 0x11 0x22 0x33 0).setV 3 0x44 with i := 0x400 } (fun t =>
      (List.range 5).map (fun j => t.readByte (0x400 + j)) == [0x11, 0x22, 0x33, 0x44, 0] && t.i == 0x400) = true := by
  decide

theorem test_dump_bug_compat :
    stepped { (withRegs (placed 0xF355) 0x11 0x22 0x33 0).setV 3 0x44 with
        i := 0x400, cfg := { Config.default with fx55BugCompat := true } } (fun t =>
      (List.range 5).map (fun j => t.readByte (0x400 + j)) == [0x44, 0x44, 0x44, 0x44, 0]) = true := by decide

theorem test_load_at_top :
    stepped { (placed 0xFF65).writeByte 0xFFF 0x5C with i := 0xFF0 } (fun t =>
      t.getV 15 == 0x5C && t.getV 14 == 0 && t.i == 0xFF0) = true := by decide

theorem test_load_fault_address :
    stepped { placed 0xF065 with i := 0x2345 } (fun t =>
      t.fault == some (.outOfBoundsAccess 0x2345 .load) && t.pc == 0x200) = true := by decide

/-! ## Display (table 2.5) -/

theorem test_cls :
    stepped { withRegs (placed 0x00E0) 0 0 0 1 with fb := (Framebuffer.clear.toggle 0 0).toggle 63 31 } (fun t =>
      t.fb == Framebuffer.clear && t.getV 15 == 1) = true := by decide

/-- Start reduced modulo 64 and modulo 32, columns wrap. -/
theorem test_drw_wraps :
    stepped { (withRegs (placed 0xD121) 0 124 33 0).writeByte 0x400 0x81 with i := 0x400 } (fun t =>
      pixelsOn t [0, 1, 2] == [(3, 1), (60, 1)] && t.getV 15 == 0) = true := by decide

/-- `VF` as the y operand: row 0 collides, `VF` becomes 1, the second row lands on row 2. -/
theorem test_drw_flag_as_row :
    stepped { ((withRegs (placed 0xD1F2) 0 0 0 9).writeByte 0x400 0x80).writeByte 0x401 0x80 with
        i := 0x400, fb := Framebuffer.clear.toggle 0 0 } (fun t =>
      pixelsOn t [0, 1, 2] == [(0, 2)] && t.getV 15 == 1) = true := by decide

/-! ## Keys and timers (table 2.6) -/

theorem test_skp :
    stepped { withRegs (placed 0xE19E) 0 15 0 0 with k := 0x8000 } (fun t => t.pc == 0x204) = true := by decide

theorem test_skp_key_index_fault :
    stepped { withRegs (placed 0xE19E) 0 16 0 0 with k := 0xFFFF } (fun t =>
      t.fault == some (.keyIndexOutOfRange 16) && t.pc == 0x200) = true := by decide

theorem test_sknp :
    stepped { withRegs (placed 0xE1A1) 0 3 0 0 with k := 8 } (fun t => t.pc == 0x202) = true ∧
      stepped (withRegs (placed 0xE1A1) 0 3 0 0) (fun t => t.pc == 0x204) = true := by decide

theorem test_wait_highest_key :
    stepped { withRegs (placed 0xF10A) 0 0x55 0 0 with k := 0x8001 } (fun t =>
      t.getV 1 == 15 && t.pc == 0x202) = true := by decide

theorem test_wait_no_key :
    stepped { withRegs (placed 0xF10A) 0 0x55 0 0 with dt := 2 } (fun t =>
      t.getV 1 == 0x55 && t.pc == 0x200 && t.dt == 1) = true := by decide

theorem test_read_delay_timer :
    stepped { placed 0xF107 with dt := 0x2A } (fun t => t.getV 1 == 0x2A && t.dt == 0x29) = true := by decide

theorem test_set_delay_timer : stepped (withRegs (placed 0xF115) 0 0x10 0 0) (fun t => t.dt == 0x0F) = true := by decide

theorem test_set_sound_timer :
    stepped { withRegs (placed 0xF118) 0 0 0 0 with st := 7 } (fun t => t.st == 0) = true := by decide

/-! ## Host interface -/

theorem test_port_order : (Framebuffer.clear.toggle 5 3).portBit (3 * 64 + 5) = true := by decide

/-- The `reset` port of a faulted, running machine (R-3). -/
theorem test_reset_port_clears_the_latch :
    (match (⟨{ placed 0x6A2B with fault := some .stackOverflow, dt := 9 }, .running⟩ : System).handle .reset with
      | .next t => t.core == State.reset && t.phase == .loading
      | _ => false) = true := by decide

/-! ## Witnesses: for every obligation with hypotheses, states and operands that meet them together -/

theorem witness_DecodeOfEncodeIsIdentity :
    (Instr.jp 0xFFF).wf = true ∧ (Instr.drw 15 15 15).wf = true ∧ (Instr.ldVxMem 15).wf = true := by decide

theorem witness_DecodedWordIsWellFormedAndReencodes : decodeWord 0xDFFF = some (.drw 15 15 15) := by decide

theorem witness_DecoderAgreesWithOpcodeMap :
    ⟨"SHL_Vx", 0x800E, 0xF00F⟩ ∈ opcodeRows ∧ Row.selects ⟨"SHL_Vx", 0x800E, 0xF00F⟩ 0x812E = true := by decide

theorem witness_PlacedWordIsFetchedNext : 65535 < 65536 := by decide

/-- A state whose `pc` is the last address that can be fetched from. -/
def atTop (op : Nat) : State := ({ State.reset with pc := 0xFFE } : State).withFetchWord 16 op

theorem witness_StepRunsDecodedInstruction :
    (atTop 0x00EE).fault = none ∧ (atTop 0x00EE).pc.toNat ≤ 0xFFE ∧
      decode [(atTop 0x00EE).readByte 0xFFE, (atTop 0x00EE).readByte 0xFFF] = .ok (.ret, []) ∧
      ran .ret (atTop 0x00EE).advancePc (fun t => t.fault == some .stackUnderflow) = true ∧
      ran .ret { (atTop 0x00EE).advancePc with sp := 16 } (fun t => t.fault == none) = true := by decide

theorem witness_UnmatchedWordIsNoOp :
    (atTop 0).fault = none ∧ (atTop 0).pc.toNat ≤ 0xFFE ∧ decodeWord ((atTop 0).wordAt (atTop 0).pc.toNat) = none := by
  decide

/-- The hypotheses of a statement about a completed step of `i`. -/
def completes (i : Instr) (s : State) : Bool := decide (s.current = some i) && stepped s (fun t => t.fault == none)

theorem witness_PcAfterCompletedStep_transfers :
    completes (.jp 0xFFF) (atTop 0x1FFF) = true ∧ completes (.call 0xFFF) { atTop 0x2FFF with sp := 15 } = true ∧
      completes .ret { atTop 0x00EE with sp := 16 } = true ∧ (15 : Fin 16).val + 1 = (16 : Fin 17).val ∧
      completes (.jpV0 0xFFF) (withRegs (atTop 0xBFFF) 0xFF 0 0 0) = true := by decide

theorem witness_PcAfterCompletedStep_skips :
    completes (.seImm 0 0) (atTop 0x3000) = true ∧ completes (.seImm 0 1) (atTop 0x3001) = true ∧
      completes (.sneImm 0 0) (atTop 0x4000) = true ∧ completes (.sneImm 0 1) (atTop 0x4001) = true ∧
      completes (.seReg 0 1) (atTop 0x5010) = true ∧ completes (.seReg 0 1) (withRegs (atTop 0x5010) 1 0 0 0) = true ∧
      completes (.sneReg 0 1) (atTop 0x9010) = true ∧
      completes (.sneReg 0 1) (withRegs (atTop 0x9010) 1 0 0 0) = true := by decide

theorem witness_PcAfterCompletedStep_keys :
    completes (.skp 1) { withRegs (atTop 0xE19E) 0 15 0 0 with k := 0x8000 } = true ∧
      completes (.skp 1) (withRegs (atTop 0xE19E) 0 15 0 0) = true ∧
      completes (.sknp 1) { withRegs (atTop 0xE1A1) 0 15 0 0 with k := 0x8000 } = true ∧
      completes (.sknp 1) (withRegs (atTop 0xE1A1) 0 15 0 0) = true ∧
      completes (.ldVxK 1) { atTop 0xF10A with k := 0x8000 } = true ∧
      ({ atTop 0xF10A with k := 0x8000 } : State).keySet 15 = true ∧
      completes (.ldVxK 1) (atTop 0xF10A) = true ∧ (∀ j < 16, (atTop 0xF10A).keySet j = false) := by decide

theorem witness_PcAfterCompletedStep_others : completes (.ldImm 0xA 0x2B) (atTop 0x6A2B) = true := by decide

theorem witness_TimersTickInEveryCompletedStep :
    completes (.ldDtVx 1) (withRegs (placed 0xF115) 0 1 0 0) = true ∧
      completes (.ldStVx 1) (withRegs (placed 0xF118) 0 0 0 0) = true ∧
      completes (.ldVxDt 1) { placed 0xF107 with dt := 1 } = true ∧
      stepped { placed 0x00EE with dt := 1 } (fun t => t.fault != none) = true ∧
      stepped { placed 0x0000 with fault := some .stackOverflow, st := 1 } (fun t => t.fault != none) = true := by decide

theorem witness_ResetMemoryHoldsTheFont :
    0 < (1 : Fin 0x1B1).val ∧ (0x1B0 : Fin 0x1B1).val + 80 ≤ 0x200 := by decide

theorem reset_inv : State.reset.Inv :=
  ⟨by decide, by decide, fun j hj => absurd hj (Nat.not_lt_zero _), fun _ h => by cases h⟩

/-- The invariant also holds in a full state at its bounds. -/
def brimful : State :=
  { State.reset with
    pc := 0x10FE, sp := 16, stk := Vector.replicate 16 0x1000, mem := [(0xFFF, 1)],
    fault := some (.outOfBoundsAccess 0x10FE .fetch) }

theorem witness_StepKeepsInvariant :
    State.reset.Inv ∧ stepped State.reset (fun _ => true) = true ∧ brimful.Inv ∧ stepped brimful (fun _ => true) = true :=
  ⟨reset_inv, by decide,
    ⟨by decide, by decide, fun j _ => by simp [brimful],
      fun f h => by simp [brimful] at h; subst h; decide⟩, by decide⟩

theorem witness_CanonicalMemoriesReadingAlikeAreEqual :
    Memory.wf Config.default [(0x4F, 1), (0xFFF, 2)] = true ∧
      Memory.wf Config.default (Memory.write Config.default [(0x4F, 1)] 0xFFF 2) = true ∧
      Memory.read Config.default [(0x4F, 1), (0xFFF, 2)] =
        Memory.read Config.default (Memory.write Config.default [(0x4F, 1)] 0xFFF 2) := by
  exact ⟨by decide, by decide, rfl⟩

theorem witness_AddRegistersWithCarry : (14 : Reg) ≠ Reg.flag := by decide

theorem witness_SubtractWithStrictNoBorrow :
    (14 : Reg) ≠ Reg.flag ∧ (15 : Reg) = Reg.flag ∧
      (1 : Nat) = (if ((State.reset.setV 14 1).getV 15).toNat < ((State.reset.setV 14 1).getV 14).toNat then 1 else 0) := by
  decide

theorem witness_ShiftsByOneWithShiftedOutFlag : (0 : Reg) ≠ Reg.flag ∧ (15 : Reg) = Reg.flag := by decide

theorem witness_RandomByteIsMasked :
    ({ State.reset with rndIn := some 0xA7 } : State).rndIn = some 0xA7 ∧ State.reset.rndIn = none := by decide

theorem witness_RandomMoveUsesTheSuppliedByte : (atTop 0xCFFF).current = some (.rnd 15 0xFF) := by decide

theorem witness_JumpSetsPc :
    (0xFFF : Word) = 0xFFF ∧ (atTop 0x1FFF).fault = none ∧ (atTop 0x1FFF).pc.toNat ≤ 0xFFE ∧ (0xFFF : Word).toNat < 4096 ∧
      (atTop 0x1FFF).wordAt (atTop 0x1FFF).pc.toNat = 0x1000 ||| 0xFFF := by decide

theorem witness_ComputedJumpAddsV0 :
    (0xFFF : Word).toNat < 4096 ∧ ((withRegs State.reset 0xFF 0 0 0).getV 0).toNat = 255 := by decide

theorem witness_RegisterSkipsAddTwoWhenTrue :
    State.reset.getV 15 = 0x00 ∧ State.reset.getV 15 ≠ 0xFF ∧ State.reset.getV 0 = State.reset.getV 15 ∧
      (State.reset.setV 0 1).getV 0 ≠ (State.reset.setV 0 1).getV 15 ∧ (15 : BitVec 4) ≠ 0 := by decide

theorem witness_CallPushesReturnAddress :
    (0 : Fin 17).val < 16 ∧ ({ State.reset with sp := 15 } : State).sp.val < 16 := by decide

theorem witness_ReturnPopsReturnAddress :
    0 < ({ State.reset with sp := 1 } : State).sp.val ∧ 0 < ({ State.reset with sp := 16 } : State).sp.val := by decide

theorem witness_CallThenReturnComesBack : ({ State.reset with sp := 15 } : State).sp.val < 16 := by decide

theorem witness_IndexLoadsAddressOrGlyph :
    ((withRegs State.reset 0 15 0 0).getV 1).toNat = (15 : Fin 16).val ∧
      (State.reset.getV 1).toNat = (0 : Fin 16).val := by decide

/-- The highest `I` for which `x + 1` or 3 bytes are in memory. -/
def indexAt (a : Word) : State := { State.reset with i := a }

theorem witness_DecimalDigitsAreStored : (indexAt 0xFFD).indexed 2 ≤ 0xFFF := by decide

theorem witness_RegistersAreDumped :
    (indexAt 0xFF0).indexed (15 : Reg).val ≤ 0xFFF ∧ (indexAt 0xFFF).indexed (0 : Reg).val ≤ 0xFFF ∧
      ({ indexAt 0xFF0 with cfg := { Config.default with fx55BugCompat := true } } : State).cfg.fx55BugCompat = true := by
  decide

theorem witness_RegistersAreLoaded :
    (indexAt 0xFF0).indexed (15 : Reg).val ≤ 0xFFF ∧ (indexAt 0xFFF).indexed (0 : Reg).val ≤ 0xFFF ∧
      (0 : Reg) < 1 ∧ (15 : Reg) ≤ 15 := by decide

theorem witness_LoadAfterDumpRestoresRegisters :
    (indexAt 0xFF0).indexed (15 : Reg).val ≤ 0xFFF ∧ (indexAt 0xFF0).cfg.fx55BugCompat = false := by decide

theorem witness_StoredCodeIsFetchedNext :
    0 < (1 : Reg).val ∧ (indexAt 0xFFE).indexed (1 : Reg).val ≤ 0xFFF ∧ (indexAt 0xFFE).cfg.fx55BugCompat = false := by
  decide

/-- Fifteen rows ending at 0xFFF, no rows at an `I` outside memory; a screen where the draw collides and one where it does
not. -/
theorem witness_DrawXorsSpriteAndReportsCollision :
    (0 : Reg) ≠ Reg.flag ∧ (14 : Reg) ≠ Reg.flag ∧ 15 < 16 ∧ (indexAt 0xFF1).indexed (15 - 1) ≤ 0xFFF ∧
      (∃ cx cy, ((indexAt 0).fb.toggle 0 0).pixel cx cy = true ∧ SpriteCovers (indexAt 0) 0 0 5 cx cy) ∧
      (∀ cx cy, ¬ ((indexAt 0).fb.pixel cx cy = true ∧ SpriteCovers (indexAt 0) 0 0 5 cx cy)) :=
  ⟨by decide, by decide, by decide, by decide, ⟨0, 0, by decide, 0, by decide, 0, by decide, by decide, by decide, by decide⟩,
    fun cx cy h => by simp [indexAt, State.reset, State.resetWith, Framebuffer.pixel] at h⟩

theorem witness_DrawingTwiceRestoresTheScreen :
    (0 : Reg) ≠ Reg.flag ∧ (14 : Reg) ≠ Reg.flag ∧ 0 < 16 ∧ (0 = 0 ∨ (indexAt 0xFFFF).indexed (0 - 1) ≤ 0xFFF) := by decide

theorem witness_DrawCompletesForEveryOperand :
    (0 = 0 ∨ (indexAt 0xFFFF).indexed (0 - 1) ≤ 0xFFF) ∧ (15 = 0 ∨ (indexAt 0xFF1).indexed (15 - 1) ≤ 0xFFF) := by decide

theorem witness_DrawOnClearScreenSetsTheImage :
    15 < 16 ∧ (15 = 0 ∨ (indexAt 0xFF1).indexed (15 - 1) ≤ 0xFFF) ∧
      (∀ cx cy, (indexAt 0xFF1).fb.pixel cx cy = false) :=
  ⟨by decide, by decide, fun cx cy => Framebuffer.pixel_clear cx cy⟩

/-- The worked value of R151 (f): `x = VF`, one row 0xFF, pixel (2, 0) on. -/
def flagAsColumn : State :=
  { (withRegs State.reset 0 0 0 5).writeByte 0x400 0xFF with i := 0x400, fb := Framebuffer.clear.toggle 2 0 }

/-- Bit 2 is the first collision, and the bit after it lands on column 4. -/
theorem witness_DrawReadsItsCoordinatesLive :
    1 < 16 ∧ (1 = 0 ∨ flagAsColumn.indexed (1 - 1) ≤ 0xFFF) ∧ flagAsColumn.FirstCollision 15 1 1 (some (0, 2)) ∧
      flagAsColumn.landing 15 1 (some (0, 2)) 0 3 = (4, 0) ∧ State.reset.FirstCollision 15 15 15 none := by
  refine ⟨by decide, by decide, ⟨⟨by decide, by decide, by unfold State.SpriteHas; decide, by decide⟩, ?_⟩, by decide, ?_⟩
  · rintro row bit (h | ⟨rfl, h⟩)
    · omega
    · rintro ⟨-, -, -, hp⟩
      have h01 : bit = 0 ∨ bit = 1 := by omega
      rcases h01 with rfl | rfl
      · exact absurd hp (by decide)
      · exact absurd hp (by decide)
  · rintro row bit ⟨-, -, -, hp⟩
    simp [State.reset, State.resetWith, Framebuffer.pixel] at hp

theorem witness_KeySkipsTestTheNamedKey :
    ((withRegs State.reset 0 15 0 0).getV 1).toNat ≤ 15 ∧
      ({ withRegs State.reset 0 15 0 0 with k := 0x8000 } : State).keySet 15 = true ∧
      (withRegs State.reset 0 15 0 0).keySet 15 = false := by decide

theorem witness_WaitForKeyTakesHighestKeyOrRewinds :
    (({ State.reset with k := 0x8001 } : State).keySet 15 = true ∧
      (∀ j < 16, 15 < j → ({ State.reset with k := 0x8001 } : State).keySet j = false)) ∧
    (({ State.reset with k := 1 } : State).keySet 0 = true ∧
      (∀ j < 16, 0 < j → ({ State.reset with k := 1 } : State).keySet j = false)) ∧
    (∀ j < 16, State.reset.keySet j = false) := by decide

theorem witness_StalledWaitOnlyTicksTheTimers :
    (placed 0xF10A).current = some (.ldVxK 1) ∧ (placed 0xF10A).rndIn = none ∧ (placed 0xF10A).k = 0 := by decide

theorem witness_DelayTimerIsReadAndSetThenTicks : State.reset.fault = none := by decide

theorem witness_SoundTimerIsSetAndReadByTheHostOnly :
    State.reset.fault = none ∧ stepped (placed 0xF118) (fun _ => true) = true := by decide

theorem witness_HandlerFaultsSetTheLatchOnly :
    ({ State.reset with sp := 16 } : State).sp.val = 16 ∧ State.reset.sp.val = 0 ∧
      (1 ≤ 1 ∧ 0xFFF < (indexAt 0x1000).indexed (1 - 1)) ∧ 0xFFF < (indexAt 0xFFE).indexed 2 ∧
      0xFFF < (indexAt 0xFF1).indexed (15 : Reg).val ∧ 0xFFF < (indexAt 0x1000).indexed (0 : Reg).val ∧
      15 < ((withRegs State.reset 0 16 0 0).getV 1).toNat := by decide

/-- The same at the last values that do not fault. -/
theorem witness_HandlerFaultsSetTheLatchOnly_converse :
    ({ State.reset with sp := 15 } : State).sp.val ≠ 16 ∧ ({ State.reset with sp := 1 } : State).sp.val ≠ 0 ∧
      (0 = 0 ∨ (indexAt 0xFFFF).indexed (0 - 1) ≤ 0xFFF) ∧ (1 = 0 ∨ (indexAt 0xFFF).indexed (1 - 1) ≤ 0xFFF) ∧
      (indexAt 0xFFD).indexed 2 ≤ 0xFFF ∧ (indexAt 0xFF0).indexed (15 : Reg).val ≤ 0xFFF ∧
      ((withRegs State.reset 0 15 0 0).getV 1).toNat ≤ 15 := by decide

/-- A step that latches a fault. -/
def faultsWith (f : Fault) (s : State) : Bool := decide (s.fault = none) && stepped s (fun t => t.fault == some f)

theorem witness_StepFaultsExactlyOnItsConditions_fetch_and_stack :
    faultsWith (.outOfBoundsAccess 0x1000 .fetch) { State.reset with pc := 0xFFF } = true ∧
      faultsWith (.outOfBoundsAccess 0xFFFF .fetch) { State.reset with pc := 0xFFFF } = true ∧
      faultsWith .stackOverflow { placed 0x2ABC with sp := 16 } = true ∧
      faultsWith .stackUnderflow (placed 0x00EE) = true := by decide

theorem witness_StepFaultsExactlyOnItsConditions_memory_and_keys :
    faultsWith (.outOfBoundsAccess 0x1000 .sprite) { placed 0xD122 with i := 0xFFF } = true ∧
      faultsWith (.outOfBoundsAccess 0x1000 .bcd) { placed 0xF133 with i := 0xFFE } = true ∧
      faultsWith (.outOfBoundsAccess 0x1000 .dump) { placed 0xF155 with i := 0xFFF } = true ∧
      faultsWith (.outOfBoundsAccess 0x1000 .load) { placed 0xFF65 with i := 0xFF1 } = true ∧
      faultsWith (.keyIndexOutOfRange 16) (withRegs (placed 0xE19E) 0 16 0 0) = true ∧
      faultsWith (.keyIndexOutOfRange 255) (withRegs (placed 0xE1A1) 0 255 0 0) = true := by decide

theorem witness_FaultingStepChangesOnlyTheLatch : faultsWith .stackUnderflow (placed 0x00EE) = true := by decide

theorem witness_FaultedStateIsHeld :
    ({ placed 0x6A2B with fault := some .stackOverflow } : State).fault = some .stackOverflow ∧
      ({ placed 0x6A2B with fault := some .stackOverflow } : State).rndIn = none := by decide

/-- Each storage does change in some step. -/
theorem witness_StoragesChangeOnlyByTheirInstructions :
    stepped { placed 0xF133 with i := 0x200 } (fun t => t.readByte 0x200 != (placed 0xF133).readByte 0x200) = true ∧
      stepped { withRegs (placed 0xF055) 1 0 0 0 with i := 0x400 } (fun t => t.readByte 0x400 != 0) = true ∧
      stepped (placed 0xD005) (fun t => t.fb != (placed 0xD005).fb) = true ∧
      stepped (placed 0xA123) (fun t => t.i != 0) = true ∧
      stepped (placed 0x2ABC) (fun t => t.stk != (placed 0x2ABC).stk && t.sp != 0) = true := by decide

/-- Each kind of destination does change in some step. -/
theorem witness_RegistersChangeOnlyAsDestinations :
    stepped (placed 0x6F01) (fun t => t.getV 15 != 0) = true ∧
      stepped (withRegs (placed 0x8120) 0 0 1 0) (fun t => t.getV 1 != 0) = true ∧
      stepped (withRegs (placed 0x8124) 0 0xFF 0xFF 0) (fun t => t.getV 15 != 0 && t.getV 1 != 0xFF) = true ∧
      stepped { placed 0xD001 with fb := Framebuffer.clear.toggle 0 0 } (fun t => t.getV 15 != 0) = true ∧
      stepped { placed 0xF107 with dt := 1 } (fun t => t.getV 1 != 0) = true ∧
      stepped (placed 0xF365) (fun t => t.getV 3 != 0) = true := by decide

theorem witness_LaunchStateHoldsTheImage :
    (List.replicate 3584 (0 : Byte)).length ≤ 3584 ∧ ([] : List Byte).length ≤ 3584 ∧ 0 < [(1 : Byte)].length :=
  ⟨by rw [List.length_replicate], by decide, by decide⟩

theorem witness_HostMovesOutsideTheRulesAreRefused :
    (System.powerOn Config.default).phase = .loading ∧ (0x1FF < 0x200 ∨ 0xFFF < 0x1FF) ∧
      (0x1000 < 0x200 ∨ 0xFFF < 0x1000) ∧ (0x200 ≤ 0x200 ∧ 0x200 ≤ 0xFFF) ∧ (0x200 ≤ 0xFFF ∧ 0xFFF ≤ 0xFFF) ∧
      3584 < (List.replicate 3585 (0 : Byte)).length :=
  ⟨rfl, by decide, by decide, by decide, by decide, by rw [List.length_replicate]; decide⟩

theorem witness_FinishedProgramStaysFinished :
    (placed 0x1200).finishedAt 0x200 = true ∧ (placed 0x1200).rndIn = none ∧ (atTop 0x1FFE).finishedAt 0xFFE = true := by
  decide

theorem witness_InputFreeRunIgnoresInputs :
    (placed 0x1200).rndIn = none ∧ InputFree [(0xFFFF, 1)] (placed 0x1200) ∧
      [((0xFFFF : Word), (1 : Byte))].length = [((0 : Word), (2 : Byte))].length :=
  ⟨by decide, ⟨by decide, fun _ _ => trivial⟩, rfl⟩

end Sys2Proof.Tests
end

section
/-! PROOFS. Statements of spec/40_cycle_sequencer.md. -/

namespace Sys2Proof.Machine

/-- R92 as exact arithmetic: the advance of a fetchable `pc` does not wrap. -/
theorem State.pc_advancePc_toNat {s : State} (hp : s.pc.toNat ≤ 0xFFE) : s.advancePc.pc.toNat = s.pc.toNat + 2 := by
  rw [State.pc_advancePc]
  bv_omega

/-- R95 as an equation: the whole step of a word that selects no handler is the advance and the tick. -/
theorem step_unmatched {s : State} (hf : s.fault = none) (hp : s.pc.toNat ≤ 0xFFE)
    (hd : decodeWord (s.wordAt s.pc.toNat) = none) : step s = .next s.advancePc.tick := by
  rw [step_word hf hp, runWord_unmatched hd]

/-- Settles O8: the step answers the advanced and ticked state, and the frame of those two operations is definitional. -/
theorem unmatchedWordIsNoOp : Obligations.UnmatchedWordIsNoOp := by
  intro s hf hp hd
  exact ⟨s.advancePc.tick, step_unmatched hf hp hd, State.pc_advancePc_toNat hp, decTimer_toNat s.dt, decTimer_toNat s.st,
    rfl, State.readByte_tick s.advancePc⟩

end Sys2Proof.Machine
end

section
/-! PROOFS. Statements of spec/41_control_flow.md. -/

namespace Sys2Proof.Machine

/-- R109: a skip changes `pc` alone. -/
theorem State.pcOnly_skipIf (s : State) (c : Bool) : PcOnly s (s.skipIf c) :=
  ⟨by cases c <;> rfl, State.readByte_skipIf s c⟩

/-- R109 for any handler that is a skip: `p` says when its condition holds, `q` when it does not. -/
theorem exec_skip {i : Instr} {s : State} {c : Bool} {p q : Prop} (h : exec i s = .next (s.skipIf c))
    (hp : p → c = true) (hq : q → c = false) :
    ∃ t, exec i s = .next t ∧ (p → t.pc = s.pc + 2) ∧ (q → t.pc = s.pc) ∧ PcOnly s t :=
  ⟨s.skipIf c, h, fun hc => by simp [hp hc], fun hc => by simp [hq hc], s.pcOnly_skipIf c⟩

/-- R105, R106: with `n1 = 5` or `n1 = 9`, only `n4 = 0` selects a row. -/
theorem decodeWord_unmatched_of_nibble4_ne {op : Word} (h1 : nibble1 op = 5 ∨ nibble1 op = 9) (h4 : nibble4 op ≠ 0) :
    decodeWord op = none := by
  rcases h1 with h1 | h1
  · simpa [decodeWord, h1] using h4
  · simpa [decodeWord, h1] using h4

/-- Settles O27: each handler is a skip on its own comparison, and the nibbles of a packed word are those it was packed from. -/
theorem registerSkipsAddTwoWhenTrue : Obligations.RegisterSkipsAddTwoWhenTrue := by
  intro s x y kk
  refine ⟨?seImm, ?sneImm, ?seReg, ?sneReg, ?unmatched⟩
  case seImm => exact exec_skip rfl beq_iff_eq.mpr beq_eq_false_iff_ne.mpr
  case sneImm => exact exec_skip rfl bne_iff_ne.mpr bne_eq_false_iff_eq.mpr
  case seReg => exact exec_skip rfl beq_iff_eq.mpr beq_eq_false_iff_ne.mpr
  case sneReg => exact exec_skip rfl bne_iff_ne.mpr bne_eq_false_iff_eq.mpr
  case unmatched =>
    intro n hn
    have h4 (n1 : BitVec 4) : nibble4 (formatXy n1 x y n) ≠ 0 := by rwa [formatXy, nibble4_pack]
    exact ⟨decodeWord_unmatched_of_nibble4_ne (.inl (nibble1_pack ..)) (h4 5),
      decodeWord_unmatched_of_nibble4_ne (.inr (nibble1_pack ..)) (h4 9)⟩

end Sys2Proof.Machine
end

section
/-! PROOFS. Statements of spec/42_alu.md. -/

namespace Sys2Proof.Machine

/-! ## Handlers that write one register -/

/-- A register write reads back as written (R8). -/
theorem State.getV_setV_same (s : State) (x : Reg) (b : Byte) : (s.setV x b).getV x = b := by simp

/-- A register write changes no other register and no other part of the state (R8, R22). -/
theorem State.onlyRegister_setV (s : State) (x : Reg) (b : Byte) : OnlyRegister s (s.setV x b) x :=
  ⟨fun r hr => by rw [State.getV_setV, if_neg hr], rfl, State.readByte_setV s x b⟩

/-- Settles O17: the handler is one register write. -/
theorem loadImmediateSetsRegister : Obligations.LoadImmediateSetsRegister := by
  intro s x kk
  exact ⟨s.setV x kk, rfl, s.getV_setV_same x kk, s.onlyRegister_setV x kk⟩

/-- Settles O18: the handler is one register write, and the sum of two bytes is the sum of their values modulo 256. -/
theorem addImmediateWrapsWithoutFlag : Obligations.AddImmediateWrapsWithoutFlag := by
  intro s x kk
  refine ⟨s.setV x (s.getV x + kk), rfl, ?sum, s.onlyRegister_setV x _⟩
  case sum => rw [State.getV_setV_same, BitVec.toNat_add]

/-- For any handler that is one register write: the register's bits `j` end as `f j`, and nothing else changes. -/
theorem exec_setV_bits {i : Instr} {s : State} {x : Reg} {c : Byte} {f : Nat → Bool} (h : exec i s = .next (s.setV x c))
    (hc : ∀ j, c.getLsbD j = f j) :
    ∃ t, exec i s = .next t ∧ OnlyRegister s t x ∧ ∀ j < 8, (t.getV x).getLsbD j = f j :=
  ⟨s.setV x c, h, s.onlyRegister_setV x c, fun j _ => by rw [State.getV_setV_same, hc]⟩

/-- Settles O19: each handler is one register write, and the bits of a bitwise result are those of the operands combined. -/
theorem copyAndBitwiseOperations : Obligations.CopyAndBitwiseOperations := by
  intro s x y
  refine ⟨?copy, ?or, ?and, ?xor⟩
  case copy => exact ⟨s.setV x (s.getV y), rfl, s.getV_setV_same x _, s.onlyRegister_setV x _⟩
  case or => exact exec_setV_bits rfl fun _ => BitVec.getLsbD_or
  case and => exact exec_setV_bits rfl fun _ => BitVec.getLsbD_and
  case xor => exact exec_setV_bits rfl fun _ => BitVec.getLsbD_xor

/-! ## A step and a move of the current instruction -/

theorem State.current_eq_some {s : State} {i : Instr} :
    s.current = some i ↔ s.fault = none ∧ s.pc.toNat ≤ 0xFFE ∧ decodeWord (s.wordAt s.pc.toNat) = some i := by
  simp [State.current, and_assoc]

/-- The host's inputs have no part in what the next step executes. -/
theorem State.current_supplied (s : State) (keys : Word) (b : Byte) :
    ((s.writeKeys keys).supplyRnd b).current = s.current := rfl

/-- R94, R96: a handler that raises no fault runs on the advanced `pc`, then the timers tick. -/
theorem step_of_current {s t : State} {i : Instr} (hi : s.current = some i) (ht : exec i s.advancePc = .next t)
    (hf : t.fault = none) : step s = .next t.tick := by
  obtain ⟨hs, hp, hd⟩ := State.current_eq_some.mp hi
  rw [step_word hs hp, runWord_matched hd, ht, State.finish_next hf]

/-- A move is the step on the supplied inputs; the random byte does not outlast it (R195, R32). -/
theorem move_of_step {s t : State} {keys : Word} {b : Byte} (h : step ((s.writeKeys keys).supplyRnd b) = .next t) :
    move keys b s = .next t.withdrawRnd := by
  rw [move, h, afterStep]

/-! ## The random byte -/

/-- The byte on the `rnd` port is the one drawn, and drawing consumes it (R32, log 2). -/
theorem State.drawRnd_of_rndIn {s : State} {b : Byte} (h : s.rndIn = some b) : s.drawRnd = (b, s.withdrawRnd) := by
  simp [State.drawRnd, h, State.withdrawRnd]

/-- R131 with a byte on the `rnd` port. -/
theorem exec_rnd_of_rndIn {s : State} {b : Byte} (x : Reg) (kk : Byte) (h : s.rndIn = some b) :
    exec (.rnd x kk) s = .next (s.withdrawRnd.setV x (b &&& kk)) := by
  simp only [exec, execRnd, State.drawRnd_of_rndIn h]

/-- R131 in a move of the whole system: the register write on the state that has the new latch, the advanced `pc` and no random
byte left, then the tick. -/
theorem move_rnd {s : State} {x : Reg} {kk : Byte} (keys : Word) (b : Byte) (hi : s.current = some (.rnd x kk)) :
    move keys b s = .next ((s.writeKeys keys).advancePc.withdrawRnd.setV x (b &&& kk)).tick.withdrawRnd := by
  obtain ⟨hf, -⟩ := State.current_eq_some.mp hi
  have hstep : step ((s.writeKeys keys).supplyRnd b) =
      .next (((s.writeKeys keys).supplyRnd b).advancePc.withdrawRnd.setV x (b &&& kk)).tick :=
    step_of_current ((s.current_supplied keys b).trans hi) (exec_rnd_of_rndIn x kk rfl) hf
  exact move_of_step hstep

/-- Settles O24: the move's final state is known outright, and its register write is of the supplied byte, masked. -/
theorem randomMoveUsesTheSuppliedByte : Obligations.RandomMoveUsesTheSuppliedByte := by
  intro s keys b x kk hi
  obtain ⟨hothers, -⟩ := ((s.writeKeys keys).advancePc.withdrawRnd).onlyRegister_setV x (b &&& kk)
  exact ⟨_, move_rnd keys b hi, State.getV_setV_same _ x _, hothers, rfl, fun _ => rfl⟩

end Sys2Proof.Machine
end

section
/-! PROOFS. Statements of spec/43_index_memory.md. -/

namespace Sys2Proof.Machine

/-- Writing `I` changes no other part of the state (R140, R142). -/
theorem State.indexOnly_setI (s : State) (a : Word) : IndexOnly s (s.setI a) := ⟨rfl, State.readByte_setI s a⟩

/-- The layout of R53: the font table holds row `r` of glyph `d` at offset `5 * d + r`. -/
theorem resetByte_fontRow (c : Config) (d : Fin 16) (r : Fin 5) :
    resetByte c (c.fontBase.val + 5 * d.val + r.val) = c.fontGlyphs[d][r] := by
  have hoffset : c.fontBase.val + 5 * d.val + r.val - c.fontBase.val = 5 * d.val + r.val := by omega
  have hglyph : Fin.ofNat 16 ((5 * d.val + r.val) / 5) = d := Fin.ext (by simp only [Fin.val_ofNat]; omega)
  have hrow : Fin.ofNat 5 ((5 * d.val + r.val) % 5) = r := Fin.ext (by simp only [Fin.val_ofNat]; omega)
  rw [resetByte, if_pos (by omega)]
  simp only [hoffset, hglyph, hrow]

/-- Settles O31: each handler writes `I` alone, the glyph's address does not wrap for any byte, and a hex digit's address is where
the reset content has that digit's rows. -/
theorem indexLoadsAddressOrGlyph : Obligations.IndexLoadsAddressOrGlyph := by
  intro s nnn x
  have haddress := glyphAddress_toNat s.cfg (s.getV x)
  refine ⟨⟨s.setI nnn, rfl, rfl, s.indexOnly_setI nnn⟩,
    ⟨s.setI (glyphAddress s.cfg (s.getV x)), rfl, haddress, s.indexOnly_setI _, ?glyph⟩⟩
  case glyph =>
    intro d hd r
    rw [State.i_setI, haddress, hd]
    exact resetByte_fontRow s.cfg d r

end Sys2Proof.Machine
end

section
/-! PROOFS. Statements of spec/44_display.md. -/

namespace Sys2Proof.Machine

/-- Settles O38: the handler replaces the framebuffer by the cleared one and touches no other field. -/
theorem clearScreenClearsEveryPixel : Obligations.ClearScreenClearsEveryPixel := by
  intro s
  refine ⟨s.clearFb, rfl, ?pixels, ?frame, ?memory⟩
  case pixels => exact Framebuffer.pixel_clear
  case frame => rfl
  case memory => exact State.readByte_clearFb s

end Sys2Proof.Machine
end

section
/-! PROOFS. Statements of spec/45_keys_timers.md. -/

namespace Sys2Proof.Machine

/-! ## Timer instructions -/

/-- R96: the step of a handler that raises no fault ends with the tick of what the handler answered. -/
theorem State.finish_exec {i : Instr} {s t : State} (before : State) (h : exec i s = .next t) (hf : t.fault = none) :
    before.finish (exec i s) = .next t.tick := by
  rw [h, State.finish_next hf]

/-- Settles O46: `Fx07` is one register write and `Fx15` one timer write, and the tick then acts on what they left. -/
theorem delayTimerIsReadAndSetThenTicks : Obligations.DelayTimerIsReadAndSetThenTicks := by
  intro s before x hf
  refine ⟨⟨s.setV x s.dt, (s.setV x s.dt).tick, rfl, s.getV_setV_same x s.dt, s.onlyRegister_setV x s.dt, ?readStep,
      s.getV_setV_same x s.dt, decTimer_toNat s.dt⟩,
    ⟨s.setDt (s.getV x), (s.setDt (s.getV x)).tick, rfl, rfl, rfl, s.readByte_setDt (s.getV x), ?setStep,
      decTimer_toNat (s.getV x), decTimer_toNat s.st⟩⟩
  case readStep => exact State.finish_exec before rfl hf
  case setStep => exact State.finish_exec before rfl hf

/-! ## No operation reads `ST`

Each operation on a state with another value of `ST` has the effect it has on the state itself, with that value kept. -/

theorem State.skipIf_setSt (s : State) (b : Byte) (c : Bool) : (s.setSt b).skipIf c = (s.skipIf c).setSt b := by
  cases c <;> rfl

theorem State.drawRnd_setSt (s : State) (b : Byte) :
    (s.setSt b).drawRnd = (s.drawRnd.1, s.drawRnd.2.setSt b) := by
  rcases h : s.rndIn with _ | r <;> simp only [State.drawRnd, State.rndIn_setSt, h] <;> rfl

theorem State.writeBytes_setSt (s : State) (b : Byte) (a : Nat) (bs : List Byte) :
    (s.setSt b).writeBytes a bs = (s.writeBytes a bs).setSt b := by
  induction bs generalizing s a with
  | nil => rfl
  | cons c rest ih => exact ih (s.writeByte a c) (a + 1)

theorem State.loadRegs_setSt (s : State) (b : Byte) (x : Reg) : (s.setSt b).loadRegs x = (s.loadRegs x).setSt b :=
  List.foldl_hom (State.setSt · b) fun _ _ => rfl

theorem State.drawBit_setSt (x : Reg) (d : Byte) (cy : Fin 32) (s : State) (b : Byte) (bit : Nat) :
    State.drawBit x d cy (s.setSt b) bit = (State.drawBit x d cy s bit).setSt b := by
  unfold State.drawBit
  split <;> rfl

theorem State.drawRow_setSt (x y : Reg) (s : State) (b : Byte) (row : Nat) :
    State.drawRow x y (s.setSt b) row = (State.drawRow x y s row).setSt b :=
  List.foldl_hom (State.setSt · b) fun s bit => State.drawBit_setSt _ _ _ s b bit

theorem State.drawSprite_setSt (s : State) (b : Byte) (x y : Reg) (n : Nat) :
    (s.setSt b).drawSprite x y n = (s.drawSprite x y n).setSt b :=
  List.foldl_hom (init := s.setFlag false) (State.setSt · b) fun s row => State.drawRow_setSt x y s b row

theorem State.checked_setSt (s t : State) (b : Byte) (f : Option Fault) :
    (s.setSt b).checked f (t.setSt b) = afterStep (State.setSt · b) (s.checked f t) := by
  cases f <;> rfl

/-! ## No step reads `ST` -/

/-- Every handler but `Fx18` answers as before, with the other value of `ST` kept. -/
theorem exec_setSt {i : Instr} (hi : ∀ x, i ≠ .ldStVx x) (s : State) (b : Byte) :
    exec i (s.setSt b) = afterStep (State.setSt · b) (exec i s) := by
  cases i with
  | ldStVx x => exact absurd rfl (hi x)
  | ret =>
    by_cases hs : s.sp.val = 0
    · rw [exec_ret_empty hs, exec_ret_empty (s := s.setSt b) hs]; rfl
    · rw [exec_ret hs, exec_ret (s := s.setSt b) hs]; rfl
  | call nnn =>
    by_cases hs : s.sp.val < 16
    · rw [exec_call nnn hs, exec_call (s := s.setSt b) nnn hs]; rfl
    · have hfull : s.sp.val = 16 := by omega
      rw [exec_call_full nnn hfull, exec_call_full (s := s.setSt b) nnn hfull]; rfl
  | seImm x kk => exact congrArg _ (s.skipIf_setSt b _)
  | sneImm x kk => exact congrArg _ (s.skipIf_setSt b _)
  | seReg x y => exact congrArg _ (s.skipIf_setSt b _)
  | sneReg x y => exact congrArg _ (s.skipIf_setSt b _)
  | rnd x kk => simp only [exec, execRnd, State.drawRnd_setSt]; rfl
  | drw x y n => simp only [exec, execDrw, State.drawSprite_setSt]; exact State.checked_setSt ..
  | skp x => simp only [exec, execSkp, State.skipIf_setSt]; exact State.checked_setSt ..
  | sknp x => simp only [exec, execSknp, State.skipIf_setSt]; exact State.checked_setSt ..
  | ldVxK x =>
    rcases hk : s.scanKeys with _ | key
    · rw [exec_ldVxK_none hk, exec_ldVxK_none (s := s.setSt b) hk]; rfl
    · rw [exec_ldVxK_some hk, exec_ldVxK_some (s := s.setSt b) hk]; rfl
  | ldB x => simp only [exec, execLdB, State.storeDigits, State.writeBytes_setSt]; exact State.checked_setSt ..
  | ldMemVx x => simp only [exec, execLdMemVx, State.dumpRegs, State.writeBytes_setSt]; exact State.checked_setSt ..
  | ldVxMem x => simp only [exec, execLdVxMem, State.loadRegs_setSt]; exact State.checked_setSt ..
  | _ => rfl

/-- Another value of `ST` before a handler makes no difference to its answer but, at most, the value of `ST` in it: `Fx18`
overwrites the other value, every other handler keeps it. -/
theorem exec_setSt_exists (i : Instr) (s : State) (b : Byte) :
    ∃ c, exec i (s.setSt b) = afterStep (State.setSt · c) (exec i s) := by
  by_cases hi : ∃ x, i = .ldStVx x
  · obtain ⟨x, rfl⟩ := hi
    exact ⟨s.getV x, rfl⟩
  · exact ⟨b, exec_setSt (not_exists.mp hi) s b⟩

/-- The end of a step carries a difference in `ST` alone to a difference in `ST` alone. -/
theorem State.finish_setSt_exists (before : State) (b c : Byte) (r : Result) :
    ∃ d, (before.setSt b).finish (afterStep (State.setSt · c) r) = afterStep (State.setSt · d) (before.finish r) := by
  cases r with
  | next t =>
    rcases hf : t.fault with _ | f
    · exact ⟨decTimer c, by rw [afterStep, State.finish_next (t := t.setSt c) hf, State.finish_next hf]; rfl⟩
    · exact ⟨b, by rw [afterStep, State.finish_raised (t := t.setSt c) hf, State.finish_raised hf]; rfl⟩
  | fault f => exact ⟨b, rfl⟩
  | refused r => exact ⟨b, rfl⟩

theorem runWord_setSt_exists (s : State) (b : Byte) (op : Word) :
    ∃ c, runWord (s.setSt b) op = afterStep (State.setSt · c) (runWord s op) := by
  rcases hd : decodeWord op with _ | i
  · exact ⟨decTimer b, by rw [runWord_unmatched hd, runWord_unmatched hd]; rfl⟩
  · obtain ⟨c, hc⟩ := exec_setSt_exists i s.advancePc b
    obtain ⟨d, hfin⟩ := s.finish_setSt_exists b c (exec i s.advancePc)
    refine ⟨d, ?_⟩
    rw [runWord_matched hd, runWord_matched hd, ← hfin, ← hc]
    rfl

/-- R165: no step reads `ST`. -/
theorem step_setSt_exists (s : State) (b : Byte) :
    ∃ c, step (s.setSt b) = afterStep (State.setSt · c) (step s) := by
  rcases hf : s.fault with _ | f
  · by_cases hp : s.pc.toNat ≤ 0xFFE
    · rw [step_word hf hp, step_word (s := s.setSt b) hf hp]
      exact runWord_setSt_exists s b _
    · have hp' : 0xFFE < s.pc.toNat := by omega
      exact ⟨b, by rw [step_fetchFault hf hp', step_fetchFault (s := s.setSt b) hf hp']; rfl⟩
  · exact ⟨b, by rw [step_faulted hf, step_faulted (s := s.setSt b) hf]; rfl⟩

/-- Settles O47: `Fx18` is one timer write and the tick acts on what it left; a step from another value of `ST` answers the
same state but for `ST`. -/
theorem soundTimerIsSetAndReadByTheHostOnly : Obligations.SoundTimerIsSetAndReadByTheHostOnly := by
  refine ⟨?set, ?unread⟩
  case set =>
    intro s before x hf
    exact ⟨s.setSt (s.getV x), (s.setSt (s.getV x)).tick, rfl, rfl, rfl, s.readByte_setSt (s.getV x),
      State.finish_exec before rfl hf, decTimer_toNat (s.getV x), decTimer_toNat s.dt, rfl⟩
  case unread =>
    intro s t b h
    obtain ⟨c, hc⟩ := step_setSt_exists s b
    rw [h] at hc
    exact ⟨t.setSt c, hc, rfl⟩

end Sys2Proof.Machine
end

section
/-! PROOFS. Statements of spec/70_reset_and_hazards.md. -/

namespace Sys2Proof.Machine

/-! ## Reset memory -/

/-- Reset lists no byte, so that every address reads as its reset content (R192). -/
@[simp] theorem State.readByte_resetWith (c : Config) (a : Nat) : (State.resetWith c).readByte a = resetByte c a := rfl

/-- The reset content outside the 80 bytes of the font table is 0x00 (R53, R192). -/
theorem resetByte_outside_font {c : Config} {a : Nat} (ha : a < c.fontBase.val ∨ c.fontBase.val + 80 ≤ a) :
    resetByte c a = 0x00 := if_neg (by omega)

/-- Settles O12: reset memory reads as the reset content, which is the font table's rows and 0x00 outside them. -/
theorem resetMemoryHoldsTheFont : Obligations.ResetMemoryHoldsTheFont := by
  intro c
  refine ⟨?font, ?zeros⟩
  case font =>
    intro d r
    rw [State.readByte_resetWith, resetByte_fontRow]
  case zeros =>
    intro a ha
    rw [State.readByte_resetWith, resetByte_outside_font ha]

/-! ## Storing an image -/

@[simp] theorem State.pc_writeBytes (s : State) (a : Nat) (bs : List Byte) : (s.writeBytes a bs).pc = s.pc := by
  rw [State.writeBytes_only_mem]

@[simp] theorem State.sp_writeBytes (s : State) (a : Nat) (bs : List Byte) : (s.writeBytes a bs).sp = s.sp := by
  rw [State.writeBytes_only_mem]

/-- Each stored byte reads back at its place (R58). -/
theorem State.readByte_writeBytes_inside (s : State) (a : Nat) {bs : List Byte} {j : Nat} (hj : j < bs.length) :
    (s.writeBytes a bs).readByte (a + j) = bs[j] := by
  rw [State.readByte_writeBytes, if_pos (Nat.le_add_right a j), Nat.add_sub_cancel_left, List.getElem?_eq_getElem hj,
    Option.getD_some]

/-- Storing bytes changes no byte outside their places and no other part of the state (R58). -/
theorem State.bytesOnly_writeBytes (s : State) (a : Nat) (bs : List Byte) :
    BytesOnly s (s.writeBytes a bs) a bs.length := by
  refine ⟨s.writeBytes_only_mem a bs, ?outside⟩
  case outside =>
    intro p hp
    rw [State.readByte_writeBytes]
    split_ifs with hap
    · have hlen : bs.length ≤ p - a := by omega
      rw [List.getElem?_eq_none hlen, Option.getD_none]
    · rfl

/-- Storing bytes inside the memory array keeps the invariant. -/
theorem State.inv_writeBytes {s : State} {a : Nat} {bs : List Byte} (ha : a + bs.length ≤ memSize) (hs : s.Inv) :
    (s.writeBytes a bs).Inv := by
  obtain ⟨hmem, hpc, hstack, hfault⟩ := hs
  rw [State.writeBytes_only_mem]
  exact ⟨State.wf_writeBytes bs ha hmem, hpc, hstack, hfault⟩

/-- The invariant holds at reset, whatever the parameters (R38). -/
theorem State.inv_resetWith (c : Config) : (State.resetWith c).Inv where
  memory := State.wf_mem_resetWith c
  pcBound := show (0x200 : Word).toNat ≤ 0x10FE by decide
  stack := fun _ hj => absurd hj (Nat.not_lt_zero _)
  faultInfo := fun _ hf => absurd hf nofun

/-! ## The launch state -/

/-- A fetch with both bytes inside memory reads the big-endian word at `pc` (R57, R91). -/
theorem State.fetch_of_pc_le {s : State} (hp : s.pc.toNat ≤ 0xFFE) : s.fetch = .ok (s.wordAt s.pc.toNat) := by
  rw [State.fetch_eq, if_pos hp]

/-- An image that fits has a launch state (R193, R194). -/
theorem launch_of_fits (c : Config) {image : List Byte} (h : image.length ≤ 3584) :
    launch c image = .next ((State.resetWith c).writeBytes 0x200 image) := if_pos h

/-- Settles O54: the launch state is the reset state with the image stored at 0x200, which keeps `pc` at 0x200 and the stack
empty. -/
theorem launchStateHoldsTheImage : Obligations.LaunchStateHoldsTheImage := by
  intro c image hlen
  have hpc : ((State.resetWith c).writeBytes 0x200 image).pc = 0x200 := State.pc_writeBytes ..
  have hsp : ((State.resetWith c).writeBytes 0x200 image).sp = 0 := State.sp_writeBytes ..
  refine ⟨_, launch_of_fits c hlen, ?image, State.bytesOnly_writeBytes .., ?inv, ?fetch, ?ret⟩
  case image => exact fun j hj => State.readByte_writeBytes_inside _ _ hj
  case inv => exact State.inv_writeBytes (by rw [memSize]; omega) (State.inv_resetWith c)
  case fetch =>
    rw [State.fetch_of_pc_le (by rw [hpc]; decide), hpc]
    rfl
  case ret => exact exec_ret_empty (by rw [State.sp_advancePc, hsp]; rfl)

end Sys2Proof.Machine
end

section
/-! PROOFS. Statements of spec/30_encoding.md. -/

namespace Sys2Proof

/-! ## Fields of an encoded word

Each format of R75 has its nibbles and fields read back as they were packed. -/

@[simp] theorem nibble1_formatNnn (n1 : BitVec 4) (nnn : Word) : nibble1 (formatNnn n1 nnn) = n1 := nibble1_pack ..
@[simp] theorem nibble1_formatXkk (n1 : BitVec 4) (x : Reg) (kk : Byte) : nibble1 (formatXkk n1 x kk) = n1 :=
  nibble1_pack ..
@[simp] theorem nibble1_formatXy (n1 : BitVec 4) (x y : Reg) (n4 : BitVec 4) : nibble1 (formatXy n1 x y n4) = n1 :=
  nibble1_pack ..
@[simp] theorem nibble1_formatXyn (n1 : BitVec 4) (x y : Reg) (n : Nat) : nibble1 (formatXyn n1 x y n) = n1 :=
  nibble1_pack ..
@[simp] theorem nibble1_formatX (n1 : BitVec 4) (x : Reg) (n3 n4 : BitVec 4) : nibble1 (formatX n1 x n3 n4) = n1 :=
  nibble1_pack ..

@[simp] theorem nibble4_formatXy (n1 : BitVec 4) (x y : Reg) (n4 : BitVec 4) : nibble4 (formatXy n1 x y n4) = n4 :=
  nibble4_pack ..

@[simp] theorem fieldX_formatXkk (n1 : BitVec 4) (x : Reg) (kk : Byte) : fieldX (formatXkk n1 x kk) = x := by
  simp [fieldX, formatXkk]
@[simp] theorem fieldX_formatXy (n1 : BitVec 4) (x y : Reg) (n4 : BitVec 4) : fieldX (formatXy n1 x y n4) = x := by
  simp [fieldX, formatXy]
@[simp] theorem fieldX_formatXyn (n1 : BitVec 4) (x y : Reg) (n : Nat) : fieldX (formatXyn n1 x y n) = x := by
  simp [fieldX, formatXyn]
@[simp] theorem fieldX_formatX (n1 : BitVec 4) (x : Reg) (n3 n4 : BitVec 4) : fieldX (formatX n1 x n3 n4) = x := by
  simp [fieldX, formatX]

@[simp] theorem fieldY_formatXy (n1 : BitVec 4) (x y : Reg) (n4 : BitVec 4) : fieldY (formatXy n1 x y n4) = y := by
  simp [fieldY, formatXy]
@[simp] theorem fieldY_formatXyn (n1 : BitVec 4) (x y : Reg) (n : Nat) : fieldY (formatXyn n1 x y n) = y := by
  simp [fieldY, formatXyn]

@[simp] theorem fieldKk_formatXkk (n1 : BitVec 4) (x : Reg) (kk : Byte) : fieldKk (formatXkk n1 x kk) = kk := by
  simp [fieldKk_eq_append, formatXkk, append_nibbles_byte]
@[simp] theorem fieldKk_formatX (n1 : BitVec 4) (x : Reg) (n3 n4 : BitVec 4) :
    fieldKk (formatX n1 x n3 n4) = n3 ++ n4 := by
  simp [fieldKk_eq_append, formatX]

/-- A row count of 4 bits fits its nibble (R72). -/
theorem fieldN_formatXyn (n1 : BitVec 4) (x y : Reg) {n : Nat} (h : n < 16) : fieldN (formatXyn n1 x y n) = n := by
  simp [fieldN, formatXyn, Nat.mod_eq_of_lt h]

/-- The first nibble of an address operand of 12 bits is 0 (R72). -/
theorem nibble1_of_lt {nnn : Word} (h : nnn.toNat < 4096) : nibble1 nnn = 0 := by
  apply BitVec.eq_of_toNat_eq
  simp [nibble1]
  omega

/-- An address operand of 12 bits fits its three nibbles (R72). -/
theorem fieldNnn_formatNnn (n1 : BitVec 4) {nnn : Word} (h : nnn.toNat < 4096) : fieldNnn (formatNnn n1 nnn) = nnn := by
  have hlow : fieldNnn (formatNnn n1 nnn) = packNibbles 0 (nibble2 nnn) (nibble3 nnn) (nibble4 nnn) := by
    rw [fieldNnn_eq_pack, formatNnn, nibble2_pack, nibble3_pack, nibble4_pack]
    rfl
  rw [hlow, ← nibble1_of_lt h, packNibbles_nibbles]

/-! ## Decoding an encoded instruction -/

/-- The decoder inverts the encoder on well-formed instructions (R74, R75). -/
theorem decodeWord_encode {i : Instr} (h : i.wf = true) : decodeWord (encode i) = some i := by
  cases i with
  | cls | ret => decide
  | jp nnn | call nnn | ldI nnn | jpV0 nnn =>
    simp [encode, decodeWord, fieldNnn_formatNnn _ (of_decide_eq_true h)]
  | drw x y n => simp [encode, decodeWord, fieldN_formatXyn _ _ _ (of_decide_eq_true h)]
  | seImm x kk | sneImm x kk | ldImm x kk | addImm x kk | rnd x kk => simp [encode, decodeWord]
  | seReg x y | sneReg x y => simp [encode, decodeWord]
  | ldReg x y | orReg x y | andReg x y | xorReg x y | addReg x y | subReg x y | shr x y | subnReg x y | shl x y =>
    simp [encode, decodeWord, decode8]
  | skp x | sknp x => simp [encode, decodeWord, decodeE]
  | ldVxDt x | ldVxK x | ldDtVx x | ldStVx x | addI x | ldF x | ldB x | ldMemVx x | ldVxMem x =>
    simp [encode, decodeWord, decodeF]

/-- Disjunction acts nibble by nibble. -/
theorem packNibbles_or (a b c d a' b' c' d' : BitVec 4) :
    packNibbles a b c d ||| packNibbles a' b' c' d' = packNibbles (a ||| a') (b ||| b') (c ||| c') (d ||| d') := by
  apply BitVec.eq_of_getLsbD_eq; intro j hj
  simp only [BitVec.getLsbD_or, getLsbD_packNibbles]
  split_ifs <;> rfl

/-- The word of a jump to a 12-bit address, as R101 and R205 write it. -/
theorem decodeWord_jp {nnn : Word} (h : nnn.toNat < 4096) : decodeWord (0x1000 ||| nnn) = some (.jp nnn) := by
  have hnnn : packNibbles 0 (nibble2 nnn) (nibble3 nnn) (nibble4 nnn) = nnn := by
    rw [← nibble1_of_lt h, packNibbles_nibbles]
  have hword : encode (.jp nnn) = 0x1000 ||| nnn := calc
    encode (.jp nnn) = packNibbles (1 ||| 0#4) (0#4 ||| nibble2 nnn) (0#4 ||| nibble3 nnn) (0#4 ||| nibble4 nnn) := by
      simp only [BitVec.or_zero, BitVec.zero_or]
      rfl
    _ = packNibbles 1 0 0 0 ||| packNibbles 0 (nibble2 nnn) (nibble3 nnn) (nibble4 nnn) := (packNibbles_or ..).symm
    _ = 0x1000 ||| nnn := by rw [hnnn]; rfl
  rw [← hword]
  exact decodeWord_encode (decide_eq_true h)

/-- The decoder on bytes takes the first two bytes, when they are those of a word it decodes (R57, R70). -/
theorem decode_wordBytes {op : Word} {i : Instr} (rest : List Byte) (h : decodeWord op = some i) :
    decode (wordBytes op ++ rest) = .ok (i, rest) := by
  simp [wordBytes, decode, h]

/-- Settles O1: the word by `decodeWord_encode`, and the two bytes of that word compose to it again. -/
theorem decodeOfEncodeIsIdentity : Obligations.DecodeOfEncodeIsIdentity := by
  intro i rest h
  exact ⟨decodeWord_encode h, decode_wordBytes rest (decodeWord_encode h)⟩

/-! ## Encoding a decoded word

Each format built from a word's own fields, with the word's own fixed nibbles, is the word. -/

theorem formatNnn_fields {op : Word} {n1 : BitVec 4} (h1 : nibble1 op = n1) : formatNnn n1 (fieldNnn op) = op := by
  have hn : formatNnn n1 (fieldNnn op) =
      packNibbles n1 (nibble2 (fieldNnn op)) (nibble3 (fieldNnn op)) (nibble4 (fieldNnn op)) := rfl
  rw [hn, fieldNnn_eq_pack, nibble2_pack, nibble3_pack, nibble4_pack, ← h1, packNibbles_nibbles]

theorem formatXkk_fields {op : Word} {n1 : BitVec 4} (h1 : nibble1 op = n1) :
    formatXkk n1 (fieldX op) (fieldKk op) = op := by
  have h3 : (fieldKk op).extractLsb' 4 4 = nibble3 op := by
    apply BitVec.eq_of_getLsbD_eq; intro j hj
    simp [fieldKk, nibble3, hj]
  have h4 : (fieldKk op).extractLsb' 0 4 = nibble4 op := by
    apply BitVec.eq_of_getLsbD_eq; intro j hj
    simp [fieldKk, nibble4, hj]
  rw [formatXkk, fieldX, nibbleOfReg_regOfNibble, h3, h4, ← h1, packNibbles_nibbles]

theorem formatXy_fields {op : Word} {n1 n4 : BitVec 4} (h1 : nibble1 op = n1) (h4 : nibble4 op = n4) :
    formatXy n1 (fieldX op) (fieldY op) n4 = op := by
  rw [formatXy, fieldX, fieldY, nibbleOfReg_regOfNibble, nibbleOfReg_regOfNibble, ← h1, ← h4, packNibbles_nibbles]

theorem formatXyn_fields {op : Word} {n1 : BitVec 4} (h1 : nibble1 op = n1) :
    formatXyn n1 (fieldX op) (fieldY op) (fieldN op) = op := by
  rw [formatXyn, fieldN, BitVec.ofNat_toNat, BitVec.setWidth_eq]
  exact formatXy_fields h1 rfl

/-- Format X is format XKK with a byte of two fixed nibbles (R75). -/
theorem formatX_eq_formatXkk (n1 : BitVec 4) (x : Reg) (n3 n4 : BitVec 4) :
    formatX n1 x n3 n4 = formatXkk n1 x (n3 ++ n4) := by
  have h3 : (n3 ++ n4).extractLsb' 4 4 = n3 := BitVec.extractLsb'_append_eq_left
  have h4 : (n3 ++ n4).extractLsb' 0 4 = n4 := BitVec.extractLsb'_append_eq_right
  rw [formatX, formatXkk, h3, h4]

theorem formatX_fields {op : Word} {n1 n3 n4 : BitVec 4} (h1 : nibble1 op = n1) (hkk : fieldKk op = n3 ++ n4) :
    formatX n1 (fieldX op) n3 n4 = op := by
  rw [formatX_eq_formatXkk, ← hkk, formatXkk_fields h1]

/-- The rows with `n1 = 8` re-encode to the word they were read from. -/
theorem encode_of_decode8 {op : Word} {i : Instr} (h1 : nibble1 op = 0x8) (h : decode8 op = some i) :
    i.wf = true ∧ encode i = op := by
  unfold decode8 at h
  split at h <;> cases h
  all_goals exact ⟨rfl, formatXy_fields h1 (BitVec.eq_of_toNat_eq ‹_›)⟩

/-- The rows with `n1 = E` re-encode to the word they were read from. -/
theorem encode_of_decodeE {op : Word} {i : Instr} (h1 : nibble1 op = 0xE) (h : decodeE op = some i) :
    i.wf = true ∧ encode i = op := by
  unfold decodeE at h
  split at h <;> cases h
  all_goals exact ⟨rfl, formatX_fields h1 (BitVec.eq_of_toNat_eq ‹_›)⟩

/-- The rows with `n1 = F` re-encode to the word they were read from. -/
theorem encode_of_decodeF {op : Word} {i : Instr} (h1 : nibble1 op = 0xF) (h : decodeF op = some i) :
    i.wf = true ∧ encode i = op := by
  unfold decodeF at h
  split at h <;> cases h
  all_goals exact ⟨rfl, formatX_fields h1 (BitVec.eq_of_toNat_eq ‹_›)⟩

/-- A nibble has one of 16 values. -/
theorem nibble_cases (a : BitVec 4) : a = 0x0 ∨ a = 0x1 ∨ a = 0x2 ∨ a = 0x3 ∨ a = 0x4 ∨ a = 0x5 ∨ a = 0x6 ∨ a = 0x7 ∨
    a = 0x8 ∨ a = 0x9 ∨ a = 0xA ∨ a = 0xB ∨ a = 0xC ∨ a = 0xD ∨ a = 0xE ∨ a = 0xF := by
  revert a; decide

/-- Settles O2, by the first nibble: it selects the format, whose fields and fixed nibbles are those of the word. -/
theorem decodedWordIsWellFormedAndReencodes : Obligations.DecodedWordIsWellFormedAndReencodes := by
  intro op i h
  rcases nibble_cases (nibble1 op) with h1 | h1 | h1 | h1 | h1 | h1 | h1 | h1 | h1 | h1 | h1 | h1 | h1 | h1 | h1 | h1
  all_goals simp only [decodeWord, h1, BitVec.reduceToNat] at h
  · split_ifs at h with hcls hret
    · cases h; exact ⟨rfl, hcls.symm⟩
    · cases h; exact ⟨rfl, hret.symm⟩
  · cases h; exact ⟨decide_eq_true (fieldNnn_lt op), formatNnn_fields h1⟩
  · cases h; exact ⟨decide_eq_true (fieldNnn_lt op), formatNnn_fields h1⟩
  · cases h; exact ⟨rfl, formatXkk_fields h1⟩
  · cases h; exact ⟨rfl, formatXkk_fields h1⟩
  · split_ifs at h with h4
    cases h; exact ⟨rfl, formatXy_fields h1 h4⟩
  · cases h; exact ⟨rfl, formatXkk_fields h1⟩
  · cases h; exact ⟨rfl, formatXkk_fields h1⟩
  · exact encode_of_decode8 h1 h
  · split_ifs at h with h4
    cases h; exact ⟨rfl, formatXy_fields h1 h4⟩
  · cases h; exact ⟨decide_eq_true (fieldNnn_lt op), formatNnn_fields h1⟩
  · cases h; exact ⟨decide_eq_true (fieldNnn_lt op), formatNnn_fields h1⟩
  · cases h; exact ⟨rfl, formatXkk_fields h1⟩
  · cases h; exact ⟨decide_eq_true (fieldN_lt op), formatXyn_fields h1⟩
  · exact encode_of_decodeE h1 h
  · exact encode_of_decodeF h1 h

/-! ## Unmatched words -/

theorem decode8_eq_none {op : Word} :
    decode8 op = none ↔ nibble4 op ∈ [0x8, 0x9, 0xA, 0xB, 0xC, 0xD, 0xF] := by
  unfold decode8
  generalize nibble4 op = n4
  rcases nibble_cases n4 with h | h | h | h | h | h | h | h | h | h | h | h | h | h | h | h <;> simp [h]

theorem decodeE_eq_none {op : Word} : decodeE op = none ↔ fieldKk op ≠ 0x9E ∧ fieldKk op ≠ 0xA1 := by
  unfold decodeE
  split <;> simp_all [← BitVec.toNat_inj]

theorem decodeF_eq_none {op : Word} :
    decodeF op = none ↔ fieldKk op ∉ [0x07, 0x0A, 0x15, 0x18, 0x1E, 0x29, 0x33, 0x55, 0x65] := by
  unfold decodeF
  split <;> simp_all [← BitVec.toNat_inj]

/-- Settles O4, by the first nibble: those of R79's groups have a remainder of their own, every other one selects a row. -/
theorem unmatchedWordsAreTheListedGroups : Obligations.UnmatchedWordsAreTheListedGroups := by
  intro op
  rcases nibble_cases (nibble1 op) with h1 | h1 | h1 | h1 | h1 | h1 | h1 | h1 | h1 | h1 | h1 | h1 | h1 | h1 | h1 | h1
  case inl => simp only [decodeWord, h1, BitVec.reduceToNat]; split_ifs <;> simp_all
  all_goals simp [decodeWord, h1, decode8_eq_none, decodeE_eq_none, decodeF_eq_none]

/-! ## The opcode map -/

/-- R74: the word of every instruction selects the row that carries the instruction's mnemonic. -/
theorem exists_row_of_instr (i : Instr) : Laws.EncodesInRow.Statement i := by
  cases i with
  | cls => exact Laws.EncodesInRow.cls
  | ret => exact Laws.EncodesInRow.ret
  | jp nnn => exact Laws.EncodesInRow.jp nnn
  | call nnn => exact Laws.EncodesInRow.call nnn
  | seImm x kk => exact Laws.EncodesInRow.seImm x kk
  | sneImm x kk => exact Laws.EncodesInRow.sneImm x kk
  | seReg x y => exact Laws.EncodesInRow.seReg x y
  | ldImm x kk => exact Laws.EncodesInRow.ldImm x kk
  | addImm x kk => exact Laws.EncodesInRow.addImm x kk
  | ldReg x y => exact Laws.EncodesInRow.ldReg x y
  | orReg x y => exact Laws.EncodesInRow.orReg x y
  | andReg x y => exact Laws.EncodesInRow.andReg x y
  | xorReg x y => exact Laws.EncodesInRow.xorReg x y
  | addReg x y => exact Laws.EncodesInRow.addReg x y
  | subReg x y => exact Laws.EncodesInRow.subReg x y
  | shr x y => exact Laws.EncodesInRow.shr x y
  | subnReg x y => exact Laws.EncodesInRow.subnReg x y
  | shl x y => exact Laws.EncodesInRow.shl x y
  | sneReg x y => exact Laws.EncodesInRow.sneReg x y
  | ldI nnn => exact Laws.EncodesInRow.ldI nnn
  | jpV0 nnn => exact Laws.EncodesInRow.jpV0 nnn
  | rnd x kk => exact Laws.EncodesInRow.rnd x kk
  | drw x y n => exact Laws.EncodesInRow.drw x y n
  | skp x => exact Laws.EncodesInRow.skp x
  | sknp x => exact Laws.EncodesInRow.sknp x
  | ldVxDt x => exact Laws.EncodesInRow.ldVxDt x
  | ldVxK x => exact Laws.EncodesInRow.ldVxK x
  | ldDtVx x => exact Laws.EncodesInRow.ldDtVx x
  | ldStVx x => exact Laws.EncodesInRow.ldStVx x
  | addI x => exact Laws.EncodesInRow.addI x
  | ldF x => exact Laws.EncodesInRow.ldF x
  | ldB x => exact Laws.EncodesInRow.ldB x
  | ldMemVx x => exact Laws.EncodesInRow.ldMemVx x
  | ldVxMem x => exact Laws.EncodesInRow.ldVxMem x

/-- A word that decodes selects a row, the one with its instruction's mnemonic. -/
theorem exists_row_of_decodeWord {op : Word} {i : Instr} (h : decodeWord op = some i) :
    ∃ r ∈ opcodeRows, r.mnemonic = i.mnemonic ∧ r.selects op = true := by
  obtain ⟨-, rfl⟩ := decodedWordIsWellFormedAndReencodes op i h
  exact exists_row_of_instr i

theorem Row.selects_iff {r : Row} {op : Word} : r.selects op = true ↔ op &&& r.mask = r.matchBits := beq_iff_eq

/-- R76: two rows that agree on the bits both of them fix are the same row. -/
theorem row_eq_of_compatible : ∀ r ∈ opcodeRows, ∀ q ∈ opcodeRows,
    r.matchBits &&& q.mask = q.matchBits &&& r.mask → r = q := by decide

/-- The rows' mnemonics are distinct. -/
theorem row_eq_of_mnemonic : ∀ r ∈ opcodeRows, ∀ q ∈ opcodeRows, r.mnemonic = q.mnemonic → r = q := by decide

/-- R76: at most one row matches a word. -/
theorem row_unique {op : Word} {r q : Row} (hr : r ∈ opcodeRows) (hq : q ∈ opcodeRows)
    (hrs : r.selects op = true) (hqs : q.selects op = true) : r = q := by
  apply row_eq_of_compatible r hr q hq
  rw [← Row.selects_iff.mp hrs, ← Row.selects_iff.mp hqs, BitVec.and_assoc, BitVec.and_assoc, BitVec.and_comm r.mask]

/-- A word that selects a row has the row's nibbles and low byte, where the row's mask fixes them (R74). -/
theorem fields_of_selects {op : Word} {r : Row} (h : r.selects op = true) :
    nibble1 op &&& nibble1 r.mask = nibble1 r.matchBits ∧ nibble4 op &&& nibble4 r.mask = nibble4 r.matchBits ∧
      fieldKk op &&& fieldKk r.mask = fieldKk r.matchBits := by
  rw [← Row.selects_iff.mp h]
  exact ⟨BitVec.extractLsb'_and.symm, BitVec.extractLsb'_and.symm, BitVec.extractLsb'_and.symm⟩

/-- R76: every row fixes the first nibble, and the rows that share one fix what tells them apart, outside R79's groups. -/
theorem opcodeRows_fixed : ∀ r ∈ opcodeRows, nibble1 r.mask = BitVec.allOnes 4 ∧
    (nibble1 r.matchBits = 0x0 → r.mask = BitVec.allOnes 16 ∧ (r.matchBits = 0x00E0 ∨ r.matchBits = 0x00EE)) ∧
    (nibble1 r.matchBits = 0x5 ∨ nibble1 r.matchBits = 0x9 →
      nibble4 r.mask = BitVec.allOnes 4 ∧ nibble4 r.matchBits = 0) ∧
    (nibble1 r.matchBits = 0x8 → nibble4 r.mask = BitVec.allOnes 4 ∧
      nibble4 r.matchBits ∉ [0x8, 0x9, 0xA, 0xB, 0xC, 0xD, 0xF]) ∧
    (nibble1 r.matchBits = 0xE → fieldKk r.mask = BitVec.allOnes 8 ∧
      (fieldKk r.matchBits = 0x9E ∨ fieldKk r.matchBits = 0xA1)) ∧
    (nibble1 r.matchBits = 0xF → fieldKk r.mask = BitVec.allOnes 8 ∧
      fieldKk r.matchBits ∈ [0x07, 0x0A, 0x15, 0x18, 0x1E, 0x29, 0x33, 0x55, 0x65]) := by decide

/-- A word of R79's groups selects no row: it differs from each in something the row fixes. -/
theorem decodeWord_ne_none_of_selects {op : Word} {r : Row} (hr : r ∈ opcodeRows) (hs : r.selects op = true) :
    decodeWord op ≠ none := by
  obtain ⟨hfirst, h0, h59, h8, hE, hF⟩ := opcodeRows_fixed r hr
  obtain ⟨hn1, hn4, hkk⟩ := fields_of_selects hs
  rw [hfirst, BitVec.and_allOnes] at hn1
  rw [Ne, unmatchedWordsAreTheListedGroups op, hn1]
  rintro (⟨h1, hcls, hret⟩ | ⟨h1, h4⟩ | ⟨h1, h4⟩ | ⟨h1, h4⟩ | ⟨h1, hskp, hsknp⟩ | ⟨h1, hrows⟩)
  · obtain ⟨hmask, hmatch⟩ := h0 h1
    have hop : op = r.matchBits := by
      rw [← Row.selects_iff.mp hs, hmask, BitVec.and_allOnes]
    exact hmatch.elim (hcls <| hop.trans ·) (hret <| hop.trans ·)
  · obtain ⟨hmask, hmatch⟩ := h59 (.inl h1)
    rw [hmask, BitVec.and_allOnes] at hn4
    exact h4 (hn4.trans hmatch)
  · obtain ⟨hmask, hmatch⟩ := h8 h1
    rw [hmask, BitVec.and_allOnes] at hn4
    exact hmatch (hn4 ▸ h4)
  · obtain ⟨hmask, hmatch⟩ := h59 (.inr h1)
    rw [hmask, BitVec.and_allOnes] at hn4
    exact h4 (hn4.trans hmatch)
  · obtain ⟨hmask, hmatch⟩ := hE h1
    rw [hmask, BitVec.and_allOnes] at hkk
    exact hmatch.elim (hskp <| hkk.trans ·) (hsknp <| hkk.trans ·)
  · obtain ⟨hmask, hmatch⟩ := hF h1
    rw [hmask, BitVec.and_allOnes] at hkk
    exact hrows (hkk ▸ hmatch)

/-- Settles O3: a selected row excludes the unmatched groups, the decoded instruction's own row is selected, and at most one row
is. -/
theorem decoderAgreesWithOpcodeMap : Obligations.DecoderAgreesWithOpcodeMap := by
  intro op
  refine ⟨?agree, ?unmatched, fun r hr q hq => row_unique hr hq⟩
  case agree =>
    intro r hr
    constructor
    · intro hs
      obtain ⟨i, hi⟩ := Option.ne_none_iff_exists'.mp (decodeWord_ne_none_of_selects hr hs)
      obtain ⟨q, hq, hname, hqs⟩ := exists_row_of_decodeWord hi
      rw [row_unique hr hq hs hqs]
      exact ⟨i, hi, hname.symm⟩
    · rintro ⟨i, hi, hname⟩
      obtain ⟨q, hq, hqname, hqs⟩ := exists_row_of_decodeWord hi
      rwa [row_eq_of_mnemonic r hr q hq (hname.symm.trans hqname.symm)]
  case unmatched =>
    constructor
    · intro hnone r hr
      exact Bool.eq_false_iff.mpr fun hs => decodeWord_ne_none_of_selects hr hs hnone
    · intro hrows
      by_contra hsome
      obtain ⟨i, hi⟩ := Option.ne_none_iff_exists'.mp hsome
      obtain ⟨q, hq, -, hqs⟩ := exists_row_of_decodeWord hi
      exact Bool.false_ne_true ((hrows q hq).symm.trans hqs)

/-- Settles O5: the seven words are closed terms that the decoder evaluates. -/
theorem sampleWordsDecodeAsTheTableSays : Obligations.SampleWordsDecodeAsTheTableSays := by
  unfold Obligations.SampleWordsDecodeAsTheTableSays
  decide

end Sys2Proof

namespace Sys2Proof.Machine

/-! ## The placed word -/

/-- A word of 16 bits keeps all its bits (R70). -/
theorem tableWord_sixteen {w : Nat} (h : w < 65536) : tableWord 16 w = BitVec.ofNat 16 w :=
  congrArg (BitVec.ofNat 16) (Nat.mod_eq_of_lt h)

/-- The program's base can be fetched from (R51). -/
theorem State.fetchablePc_le (s : State) : s.fetchablePc.toNat ≤ 0xFFE := by
  unfold State.fetchablePc
  split_ifs with h
  · exact h
  · decide

/-- The two stored bytes of a word read as that word (R57). -/
theorem State.wordAt_writeBytes (s : State) (a : Nat) (op : Word) : (s.writeBytes a (wordBytes op)).wordAt a = op := by
  have hhigh : (s.writeBytes a (wordBytes op)).readByte a = highByte op :=
    s.readByte_writeBytes_inside a (bs := wordBytes op) (j := 0) (show 0 < 2 by decide)
  have hlow : (s.writeBytes a (wordBytes op)).readByte (a + 1) = lowByte op :=
    s.readByte_writeBytes_inside a (bs := wordBytes op) (j := 1) (show 1 < 2 by decide)
  rw [State.wordAt, hhigh, hlow, composeWord_bytes]

/-- Settles O6: the placed word stands where the next step fetches, and the placing clears the latch. -/
theorem placedWordIsFetchedNext : Obligations.PlacedWordIsFetchedNext := by
  intro s w hw
  have hpc : (s.withFetchWord 16 w).pc = s.fetchablePc := State.pc_writeBytes ..
  refine ⟨?fetch, ?fault⟩
  case fetch =>
    have hle : (s.withFetchWord 16 w).pc.toNat ≤ 0xFFE := hpc ▸ s.fetchablePc_le
    rw [State.fetch_of_pc_le hle, hpc, ← tableWord_sixteen hw]
    exact congrArg Except.ok (State.wordAt_writeBytes _ _ _)
  case fault =>
    rw [State.withFetchWord, State.writeBytes_only_mem]

end Sys2Proof.Machine
end

section
/-! PROOFS. Statements of spec/20_memory.md. -/

namespace Sys2Proof.Machine

/-- A listed byte is the byte of an entry. -/
theorem Memory.mem_of_lookup {m : Memory} {a : Nat} {b : Byte} (h : Memory.lookup m a = some b) : (a, b) ∈ m := by
  induction m with
  | nil => cases h
  | cons c rest ih =>
    rw [Memory.lookup] at h
    split_ifs at h with hc
    · cases h
      cases hc
      exact List.mem_cons_self
    · exact List.mem_cons_of_mem c (ih h)

/-- No address below the first is listed. -/
theorem Memory.lookup_of_lt {m : Memory} {lo a : Nat} (hm : Memory.risesFrom lo m = true) (ha : a < lo) :
    Memory.lookup m a = none := by
  induction m generalizing lo with
  | nil => rfl
  | cons c rest ih =>
    simp only [Memory.risesFrom, Bool.and_eq_true, decide_eq_true_eq] at hm
    rw [Memory.lookup, if_neg (by omega)]
    exact ih hm.2 (by omega)

/-- Two lists of rising addresses that list the same byte for each address are the same list: their first entries are those of
the lowest address, and so on. -/
theorem Memory.eq_of_lookup_eq {m n : Memory} {lo : Nat} (hm : Memory.risesFrom lo m = true)
    (hn : Memory.risesFrom lo n = true) (h : ∀ a, Memory.lookup m a = Memory.lookup n a) : m = n := by
  induction m generalizing n lo with
  | nil =>
    cases n with
    | nil => rfl
    | cons d rest' => simpa [Memory.lookup] using h d.1
  | cons c rest ih =>
    cases n with
    | nil => simpa [Memory.lookup] using h c.1
    | cons d rest' =>
      simp only [Memory.risesFrom, Bool.and_eq_true, decide_eq_true_eq] at hm hn
      obtain ⟨-, hrest⟩ := hm
      obtain ⟨-, hrest'⟩ := hn
      have hfirst : c.1 = d.1 := by
        rcases Nat.lt_trichotomy c.1 d.1 with hlt | heq | hgt
        · have hc := h c.1
          simp [Memory.lookup, Nat.ne_of_gt hlt, Memory.lookup_of_lt hrest' (Nat.lt_succ_of_lt hlt)] at hc
        · exact heq
        · have hd := h d.1
          simp [Memory.lookup, Nat.ne_of_gt hgt, Memory.lookup_of_lt hrest (Nat.lt_succ_of_lt hgt)] at hd
      have hbyte : c.2 = d.2 := by simpa [Memory.lookup, hfirst] using h c.1
      have htail : rest = rest' := by
        refine ih hrest (hfirst ▸ hrest') fun a => ?_
        by_cases ha : a = c.1
        · rw [Memory.lookup_of_lt hrest (by omega), Memory.lookup_of_lt hrest' (by omega)]
        · have hother := h a
          rwa [Memory.lookup, Memory.lookup, if_neg (Ne.symm ha), if_neg (hfirst ▸ Ne.symm ha)] at hother
      rw [htail, Prod.ext hfirst hbyte]

/-- In a canonical memory an address is listed with `b` exactly when it reads as `b`, which is not its reset content. -/
theorem Memory.lookup_eq_some_iff {c : Config} {m : Memory} {a : Nat} {b : Byte} (hm : Memory.wf c m = true) :
    Memory.lookup m a = some b ↔ Memory.read c m a = b ∧ b ≠ resetByte c a := by
  unfold Memory.read
  constructor
  · intro h
    obtain ⟨-, hne⟩ := ((Memory.wf_iff c m).mp hm).2 _ (Memory.mem_of_lookup h)
    exact ⟨by rw [h, Option.getD_some], hne⟩
  · rintro ⟨hread, hne⟩
    rcases h : Memory.lookup m a with _ | b'
    · rw [h, Option.getD_none] at hread
      exact absurd hread.symm hne
    · rw [h, Option.getD_some] at hread
      rw [hread]

/-- Settles O16: what a canonical memory lists is determined by what it reads. -/
theorem canonicalMemoriesReadingAlikeAreEqual : Obligations.CanonicalMemoriesReadingAlikeAreEqual := by
  intro c m n hm hn hread
  refine Memory.eq_of_lookup_eq ((Memory.wf_iff c m).mp hm).1 ((Memory.wf_iff c n).mp hn).1 fun a => Option.ext fun b => ?_
  rw [Memory.lookup_eq_some_iff hm, Memory.lookup_eq_some_iff hn, hread]

end Sys2Proof.Machine
end

section
/-! PROOFS. Every handler in one form, its check and its effect, and what a whole step can do
(spec/40_cycle_sequencer.md, spec/60_exceptions.md R170 to R176). -/

namespace Sys2Proof.Machine

/-! ## The one form of a handler -/

/-- The fault that a handler's check, made first, finds (R171 to R174). -/
def handlerFault (i : Instr) (s : State) : Option Fault :=
  match i with
  | .ret => if s.sp.val = 0 then some .stackUnderflow else none
  | .call _ => if s.sp.val = 16 then some .stackOverflow else none
  | .drw _ _ n => s.indexFault n .sprite
  | .ldB _ => s.indexFault 3 .bcd
  | .ldMemVx x => s.indexFault (x.val + 1) .dump
  | .ldVxMem x => s.indexFault (x.val + 1) .load
  | .skp x | .sknp x => keyIndexFault (s.getV x)
  | _ => none

/-- What a handler does when its check finds no fault. -/
def handlerEffect (i : Instr) (s : State) : State :=
  match i with
  | .cls => s.clearFb
  | .ret => s.pop.elim s fun p => p.2.jumpTo p.1
  | .jp nnn => s.jumpTo nnn
  | .call nnn => (s.push s.pc).elim s (·.jumpTo nnn)
  | .seImm x kk => s.skipIf (s.getV x == kk)
  | .sneImm x kk => s.skipIf (s.getV x != kk)
  | .seReg x y => s.skipIf (s.getV x == s.getV y)
  | .ldImm x kk => s.setV x kk
  | .addImm x kk => s.setV x (s.getV x + kk)
  | .ldReg x y => s.setV x (s.getV y)
  | .orReg x y => s.setV x (s.getV x ||| s.getV y)
  | .andReg x y => s.setV x (s.getV x &&& s.getV y)
  | .xorReg x y => s.setV x (s.getV x ^^^ s.getV y)
  | .addReg x y => (s.setV x (s.getV x + s.getV y)).setFlag (carryOut (s.getV x) (s.getV y))
  | .subReg x y =>
    let s1 := s.setFlag (noBorrow (s.getV x) (s.getV y))
    s1.setV x (s1.getV x - s1.getV y)
  | .shr x _ =>
    let s1 := s.setFlag (shiftedOutRight (s.getV x))
    s1.setV x (s1.getV x >>> 1)
  | .subnReg x y =>
    let s1 := s.setFlag (noBorrow (s.getV y) (s.getV x))
    s1.setV x (s1.getV y - s1.getV x)
  | .shl x _ =>
    let s1 := s.setFlag (shiftedOutLeft (s.getV x))
    s1.setV x (s1.getV x <<< 1)
  | .sneReg x y => s.skipIf (s.getV x != s.getV y)
  | .ldI nnn => s.setI nnn
  | .jpV0 nnn => s.jumpTo (nnn + zext16 (s.getV 0))
  | .rnd x kk => s.drawRnd.2.setV x (s.drawRnd.1 &&& kk)
  | .drw x y n => s.drawSprite x y n
  | .skp x => s.skipIf (s.keySet (s.getV x).toNat)
  | .sknp x => s.skipIf (!s.keySet (s.getV x).toNat)
  | .ldVxDt x => s.setV x s.dt
  | .ldVxK x => s.scanKeys.elim (s.jumpTo (s.pc - 2)) fun key => s.setV x (BitVec.ofNat 8 key)
  | .ldDtVx x => s.setDt (s.getV x)
  | .ldStVx x => s.setSt (s.getV x)
  | .addI x => s.setI (s.i + zext16 (s.getV x))
  | .ldF x => s.setI (glyphAddress s.cfg (s.getV x))
  | .ldB x => s.storeDigits (s.getV x)
  | .ldMemVx x => s.dumpRegs x
  | .ldVxMem x => s.loadRegs x

/-- Every handler is its check, and then its effect (R9, R98). -/
theorem exec_eq_checked (i : Instr) (s : State) : exec i s = s.checked (handlerFault i s) (handlerEffect i s) := by
  cases i with
  | ret =>
    by_cases h : s.sp.val = 0
    · rw [exec_ret_empty h, handlerFault, if_pos h, State.checked_some]
    · rw [handlerFault, if_neg h, State.checked_none, handlerEffect, State.pop_eq h, exec_ret h]
      rfl
  | call nnn =>
    by_cases h : s.sp.val = 16
    · rw [exec_call_full nnn h, handlerFault, if_pos h, State.checked_some]
    · have hfree : s.sp.val < 16 := by omega
      rw [handlerFault, if_neg h, State.checked_none, handlerEffect, State.push_eq _ hfree, exec_call nnn hfree]
      rfl
  | ldVxK x =>
    rcases h : s.scanKeys with _ | key
    · rw [exec_ldVxK_none h, handlerEffect, h]; rfl
    · rw [exec_ldVxK_some h, handlerEffect, h]; rfl
  | _ => rfl

/-- A handler whose check finds no fault has its effect. -/
theorem exec_of_no_fault {i : Instr} {s : State} (h : handlerFault i s = none) :
    exec i s = .next (handlerEffect i s) := by rw [exec_eq_checked, h, State.checked_none]

/-- A handler whose check finds a fault latches it. -/
theorem exec_of_fault {i : Instr} {s : State} {f : Fault} (h : handlerFault i s = some f) :
    exec i s = .next (s.raise f) := by rw [exec_eq_checked, h, State.checked_some]

/-- No check reads `pc`. -/
@[simp] theorem handlerFault_advancePc (i : Instr) (s : State) : handlerFault i s.advancePc = handlerFault i s := by
  cases i <;> rfl

/-! ## What each effect leaves unchanged -/

/-- The parts of the state that a handler's effect can change (R22 to R30). -/
def EffectFrame (i : Instr) (s t : State) : Prop :=
  match i with
  | .cls => t = { s with fb := t.fb }
  | .ret => t = { s with pc := t.pc, sp := t.sp }
  | .call _ => t = { s with pc := t.pc, sp := t.sp, stk := t.stk }
  | .jp _ | .jpV0 _ | .seImm _ _ | .sneImm _ _ | .seReg _ _ | .sneReg _ _ | .skp _ | .sknp _ => t = { s with pc := t.pc }
  | .rnd _ _ => t = { s with v := t.v, rndIn := t.rndIn, rndDraws := t.rndDraws }
  | .drw _ _ _ => t = { s with v := t.v, fb := t.fb }
  | .ldVxK _ => t = { s with v := t.v, pc := t.pc }
  | .ldDtVx _ => t = { s with dt := t.dt }
  | .ldStVx _ => t = { s with st := t.st }
  | .ldI _ | .addI _ | .ldF _ => t = { s with i := t.i }
  | .ldB _ | .ldMemVx _ => t = { s with mem := t.mem }
  | _ => t = { s with v := t.v }

/-- Every effect stays within its frame. -/
theorem handlerEffect_frame (i : Instr) (s : State) : EffectFrame i s (handlerEffect i s) := by
  cases i with
  | ret =>
    by_cases h : s.sp.val = 0
    · rw [handlerEffect, State.pop_empty h]; rfl
    · rw [handlerEffect, State.pop_eq h]; rfl
  | call nnn =>
    by_cases h : s.sp.val < 16
    · rw [handlerEffect, State.push_eq _ h]; rfl
    · rw [handlerEffect, State.push_full _ (by omega)]; rfl
  | seImm x kk | sneImm x kk | seReg x y | sneReg x y | skp x | sknp x => exact (s.pcOnly_skipIf _).1
  | rnd x kk =>
    rcases h : s.rndIn with _ | b
    · simp only [handlerEffect, State.drawRnd, h]; rfl
    · rw [handlerEffect, State.drawRnd_of_rndIn h]; rfl
  | drw x y n => exact (DrawFrame.drawSprite s x y n).1
  | ldVxK x =>
    rcases h : s.scanKeys with _ | key
    · rw [handlerEffect, h]; rfl
    · rw [handlerEffect, h]; rfl
  | ldB x | ldMemVx x => exact s.writeBytes_only_mem _ _
  | ldVxMem x => exact s.foldl_loadReg_only_v _
  | _ => rfl

/-- No handler writes the parameters, the input latch or the fault latch but by a fault. -/
@[simp] theorem handlerEffect_cfg (i : Instr) (s : State) : (handlerEffect i s).cfg = s.cfg := by
  have h := handlerEffect_frame i s
  cases i <;> exact (congrArg State.cfg h :)

@[simp] theorem handlerEffect_k (i : Instr) (s : State) : (handlerEffect i s).k = s.k := by
  have h := handlerEffect_frame i s
  cases i <;> exact (congrArg State.k h :)

@[simp] theorem handlerEffect_fault (i : Instr) (s : State) : (handlerEffect i s).fault = s.fault := by
  have h := handlerEffect_frame i s
  cases i <;> exact (congrArg State.fault h :)

/-- Memory is written by `Fx33` and `Fx55` only. -/
theorem EffectFrame.mem {i : Instr} {s t : State} (h : EffectFrame i s t) :
    t.mem = s.mem ∨ (∃ x, i = .ldB x) ∨ ∃ x, i = .ldMemVx x := by
  cases i with
  | ldB x => exact .inr (.inl ⟨x, rfl⟩)
  | ldMemVx x => exact .inr (.inr ⟨x, rfl⟩)
  | _ => exact .inl (congrArg State.mem h :)

/-- The framebuffer is written by `00E0` and `Dxyn` only. -/
theorem EffectFrame.fb {i : Instr} {s t : State} (h : EffectFrame i s t) :
    t.fb = s.fb ∨ i = .cls ∨ ∃ x y n, i = .drw x y n := by
  cases i with
  | cls => exact .inr (.inl rfl)
  | drw x y n => exact .inr (.inr ⟨x, y, n, rfl⟩)
  | _ => exact .inl (congrArg State.fb h :)

/-- `I` is written by `Annn`, `Fx1E` and `Fx29` only. -/
theorem EffectFrame.i {i : Instr} {s t : State} (h : EffectFrame i s t) :
    t.i = s.i ∨ (∃ nnn, i = .ldI nnn) ∨ (∃ x, i = .addI x) ∨ ∃ x, i = .ldF x := by
  cases i with
  | ldI nnn => exact .inr (.inl ⟨nnn, rfl⟩)
  | addI x => exact .inr (.inr (.inl ⟨x, rfl⟩))
  | ldF x => exact .inr (.inr (.inr ⟨x, rfl⟩))
  | _ => exact .inl (congrArg State.i h :)

/-- The stack entries are written by `2nnn` only. -/
theorem EffectFrame.stk {i : Instr} {s t : State} (h : EffectFrame i s t) : t.stk = s.stk ∨ ∃ nnn, i = .call nnn := by
  cases i with
  | call nnn => exact .inr ⟨nnn, rfl⟩
  | _ => exact .inl (congrArg State.stk h :)

/-- `sp` is written by `2nnn` and `00EE` only. -/
theorem EffectFrame.sp {i : Instr} {s t : State} (h : EffectFrame i s t) :
    t.sp = s.sp ∨ (∃ nnn, i = .call nnn) ∨ i = .ret := by
  cases i with
  | call nnn => exact .inr (.inl ⟨nnn, rfl⟩)
  | ret => exact .inr (.inr rfl)
  | _ => exact .inl (congrArg State.sp h :)

/-- `DT` is written by `Fx15` only. -/
theorem EffectFrame.dt {i : Instr} {s t : State} (h : EffectFrame i s t) : t.dt = s.dt ∨ ∃ x, i = .ldDtVx x := by
  cases i with
  | ldDtVx x => exact .inr ⟨x, rfl⟩
  | _ => exact .inl (congrArg State.dt h :)

/-- `ST` is written by `Fx18` only. -/
theorem EffectFrame.st {i : Instr} {s t : State} (h : EffectFrame i s t) : t.st = s.st ∨ ∃ x, i = .ldStVx x := by
  cases i with
  | ldStVx x => exact .inr ⟨x, rfl⟩
  | _ => exact .inl (congrArg State.st h :)

/-! ## What a whole step can do -/

/-- The check of the current instruction finds exactly the faults that R171 to R174 list for it. -/
theorem handlerFault_eq_some_iff {s : State} {i : Instr} {f : Fault} (hi : s.current = some i) :
    handlerFault i s = some f ↔ FaultCondition s f := by
  obtain ⟨-, hp, hd⟩ := State.current_eq_some.mp hi
  rw [FaultCondition, if_neg (by omega), hd]
  cases i with
  | ret | call nnn =>
    simp only [handlerFault]
    split_ifs with hs <;> simp [hs, eq_comm]
  | drw x y n =>
    refine State.indexFault_eq_some.trans (and_congr_left' ?_)
    omega
  | ldB x | ldMemVx x | ldVxMem x =>
    refine State.indexFault_eq_some.trans (and_congr_left' ?_)
    omega
  | skp x | sknp x => exact keyIndexFault_eq_some
  | _ => simp [handlerFault]

/-- Everything a step can do, to the state that it answers: it is held, since a fault is latched (R97); it latches a fault and
changes nothing else (R176); it fetches a word that selects no handler (R95); or the handler runs to its end (R94, R96). -/
inductive StepOutcome (s : State) : State → Prop where
  | held (hs : s.fault ≠ none) : StepOutcome s s
  | latched (f : Fault) (hs : s.fault = none) (hf : FaultCondition s f) : StepOutcome s (s.raise f)
  | idle (hs : s.fault = none) (hp : s.pc.toNat ≤ 0xFFE) (hd : decodeWord (s.wordAt s.pc.toNat) = none) :
      StepOutcome s s.advancePc.tick
  | ran (i : Instr) (hi : s.current = some i) (hn : handlerFault i s = none) :
      StepOutcome s (handlerEffect i s.advancePc).tick

/-- The step of an instruction whose check finds no fault is its effect on the advanced `pc` and the tick. -/
theorem step_of_effect {s : State} {i : Instr} (hi : s.current = some i) (hn : handlerFault i s = none) :
    step s = .next (handlerEffect i s.advancePc).tick := by
  obtain ⟨hs, -⟩ := State.current_eq_some.mp hi
  refine step_of_current hi (exec_of_no_fault ?_) ?_
  · rw [handlerFault_advancePc, hn]
  · rw [handlerEffect_fault, State.fault_advancePc, hs]

/-- The step of an instruction whose check finds a fault latches it and undoes the advance. -/
theorem step_of_fault {s : State} {i : Instr} {f : Fault} (hi : s.current = some i) (hf : handlerFault i s = some f) :
    step s = .next (s.raise f) := by
  obtain ⟨hs, hp, hd⟩ := State.current_eq_some.mp hi
  have hexec : exec i s.advancePc = .next (s.advancePc.raise f) := exec_of_fault (by rw [handlerFault_advancePc, hf])
  rw [step_word hs hp, runWord_matched hd, hexec, State.finish_raised rfl]

/-- Every step answers a next state, by one of the four outcomes. -/
theorem exists_step (s : State) : ∃ t, step s = .next t ∧ StepOutcome s t := by
  by_cases hs : s.fault = none
  case neg =>
    obtain ⟨f, hf⟩ := Option.ne_none_iff_exists'.mp hs
    exact ⟨s, step_faulted hf, .held hs⟩
  by_cases hp : s.pc.toNat ≤ 0xFFE
  case neg =>
    have hp' : 0xFFE < s.pc.toNat := by omega
    exact ⟨_, step_fetchFault hs hp', .latched _ hs (by rw [FaultCondition, if_pos hp'])⟩
  rcases hd : decodeWord (s.wordAt s.pc.toNat) with _ | i
  case none => exact ⟨_, step_unmatched hs hp hd, .idle hs hp hd⟩
  have hi : s.current = some i := State.current_eq_some.mpr ⟨hs, hp, hd⟩
  rcases hf : handlerFault i s with _ | f
  · exact ⟨_, step_of_effect hi hf, .ran i hi hf⟩
  · exact ⟨_, step_of_fault hi hf, .latched f hs ((handlerFault_eq_some_iff hi).mp hf)⟩

/-- The state a step answers is one of the four outcomes. -/
theorem stepOutcome_of_step {s t : State} (h : step s = .next t) : StepOutcome s t := by
  obtain ⟨u, hu, hout⟩ := exists_step s
  rw [h] at hu
  cases hu
  exact hout

/-- Settles O9: one of the four outcomes. -/
theorem stepAlwaysAnswersNext : Obligations.StepAlwaysAnswersNext := by
  intro s
  obtain ⟨t, ht, -⟩ := exists_step s
  exact ⟨t, ht⟩

end Sys2Proof.Machine
end

section
/-! PROOFS. Statements of spec/60_exceptions.md and of the rules about the whole machine. -/

namespace Sys2Proof.Machine

/-! ## When a step faults -/

/-- A word that selects no handler has no fault condition (R79, R95). -/
theorem not_faultCondition_of_unmatched {s : State} (hp : s.pc.toNat ≤ 0xFFE)
    (hd : decodeWord (s.wordAt s.pc.toNat) = none) (f : Fault) : ¬ FaultCondition s f := by
  rw [FaultCondition, if_neg (by omega), hd]
  exact id

/-- A fault is that of the fetch, or one that the check of the current instruction finds. -/
theorem FaultCondition.origin {s : State} {f : Fault} (hs : s.fault = none) (hf : FaultCondition s f) :
    (0xFFE < s.pc.toNat ∧ f = .outOfBoundsAccess (max s.pc.toNat 0x1000) .fetch) ∨
      ∃ i, s.current = some i ∧ handlerFault i s = some f := by
  by_cases hp : 0xFFE < s.pc.toNat
  · rw [FaultCondition, if_pos hp] at hf
    exact .inl ⟨hp, hf⟩
  · have hp' : s.pc.toNat ≤ 0xFFE := by omega
    rcases hd : decodeWord (s.wordAt s.pc.toNat) with _ | i
    · exact absurd hf (not_faultCondition_of_unmatched hp' hd f)
    · have hi : s.current = some i := State.current_eq_some.mpr ⟨hs, hp', hd⟩
      exact .inr ⟨i, hi, (handlerFault_eq_some_iff hi).mpr hf⟩

/-- A step has at most one fault (R175). -/
theorem FaultCondition.unique {s : State} {f g : Fault} (hs : s.fault = none) (hf : FaultCondition s f)
    (hg : FaultCondition s g) : f = g := by
  rcases hf.origin hs with ⟨hp, rfl⟩ | ⟨i, hi, hif⟩
  · rw [FaultCondition, if_pos hp] at hg
    exact hg.symm
  · rw [← handlerFault_eq_some_iff hi] at hg
    exact Option.some_inj.mp (hif.symm.trans hg)

/-- Settles O49, by the outcome of the step. -/
theorem stepFaultsExactlyOnItsConditions : Obligations.StepFaultsExactlyOnItsConditions := by
  intro s t f hs h
  cases stepOutcome_of_step h with
  | held hs' => exact absurd hs hs'
  | latched g _ hg =>
    rw [State.fault_raise, Option.some_inj]
    exact ⟨fun hgf => hgf ▸ hg, hg.unique hs⟩
  | idle _ hp hd => simp [hs, not_faultCondition_of_unmatched hp hd f]
  | ran i hi hn => simp [hs, ← handlerFault_eq_some_iff hi, hn]

/-- Settles O50: of the four outcomes only a latched fault ends with a fault. -/
theorem faultingStepChangesOnlyTheLatch : Obligations.FaultingStepChangesOnlyTheLatch := by
  intro s t f hs h hf
  cases stepOutcome_of_step h with
  | held hs' => exact absurd hs hs'
  | latched g _ _ =>
    cases hf
    exact ⟨rfl, s.readByte_raise f⟩
  | idle => simp [hs] at hf
  | ran => simp [hs] at hf

/-- An access through `I` passes its check when its last byte is in memory (R146, R173). -/
theorem State.indexFault_of_inside {s : State} {m : Nat} {kind : AccessKind} (h : m = 0 ∨ s.indexed (m - 1) ≤ 0xFFF) :
    s.indexFault m kind = none := by
  unfold State.indexed at h
  exact State.indexFault_eq_none.mpr (by omega)

/-- An access through `I` faults when its last byte is not in memory (R146, R173). -/
theorem State.indexFault_of_outside {s : State} {m : Nat} {kind : AccessKind} (hm : 1 ≤ m) (h : 0xFFF < s.indexed (m - 1)) :
    s.indexFault m kind = some (.outOfBoundsAccess (max s.i.toNat 0x1000) kind) := by
  unfold State.indexed at h
  exact State.indexFault_eq_some.mpr ⟨by omega, rfl⟩

/-- Settles O48: each handler is its check and its effect, and no effect writes the latch. -/
theorem handlerFaultsSetTheLatchOnly : Obligations.HandlerFaultsSetTheLatchOnly := by
  intro s x y n nnn
  have hkept {i : Instr} (h : handlerFault i s = none) : ∃ t, exec i s = .next t ∧ t.fault = s.fault :=
    ⟨_, exec_of_no_fault h, handlerEffect_fault i s⟩
  refine ⟨exec_call_full nnn, exec_ret_empty, fun hn h => exec_of_fault (State.indexFault_of_outside hn h),
    fun h => exec_of_fault (State.indexFault_of_outside (m := 3) (by decide) h),
    fun h => exec_of_fault (State.indexFault_of_outside (m := x.val + 1) (by omega) h),
    fun h => exec_of_fault (State.indexFault_of_outside (m := x.val + 1) (by omega) h),
    fun h => exec_of_fault (keyIndexFault_eq_some.mpr ⟨h, rfl⟩),
    fun h => exec_of_fault (keyIndexFault_eq_some.mpr ⟨h, rfl⟩),
    fun h => hkept (if_neg h), fun h => hkept (if_neg h), fun h => hkept (State.indexFault_of_inside h),
    fun h => hkept (State.indexFault_of_inside (m := 3) (.inr h)),
    fun h => hkept (State.indexFault_of_inside (m := x.val + 1) (.inr h)),
    fun h => hkept (State.indexFault_of_inside (m := x.val + 1) (.inr h)),
    fun h => hkept (keyIndexFault_eq_none.mpr h), fun h => hkept (keyIndexFault_eq_none.mpr h)⟩

/-- The decoder on two bytes is the decoder on the word they compose (R57). -/
theorem decode_two_eq_ok {hi lo : Byte} {i : Instr} :
    decode [hi, lo] = .ok (i, []) ↔ decodeWord (composeWord hi lo) = some i := by
  rcases h : decodeWord (composeWord hi lo) with _ | j <;> simp [decode, h]

/-- Settles O7: the decoded bytes are the word that the step fetches. -/
theorem stepRunsDecodedInstruction : Obligations.StepRunsDecodedInstruction := by
  intro s i hs hp hdec
  have hd : decodeWord (s.wordAt s.pc.toNat) = some i := decode_two_eq_ok.mp hdec
  have hstep : step s = s.finish (exec i s.advancePc) := by rw [step_word hs hp, runWord_matched hd]
  refine ⟨?completed, ?faulted⟩
  case completed =>
    intro t ht hf
    rw [hstep, ht, State.finish_next hf]
  case faulted =>
    intro t f ht hf
    rw [hstep, ht, State.finish_raised hf]

/-! ## What a step leaves unchanged -/

/-- Settles O52, by the outcome of the step: only a handler's effect can change a storage, and only within its frame. -/
theorem storagesChangeOnlyByTheirInstructions : Obligations.StoragesChangeOnlyByTheirInstructions := by
  intro s t h
  cases stepOutcome_of_step h with
  | held => exact ⟨rfl, rfl, fun hm => absurd (fun _ => rfl) hm, by simp⟩
  | latched f => exact ⟨rfl, rfl, fun hm => absurd (fun _ => rfl) hm, by simp⟩
  | idle => exact ⟨rfl, rfl, fun hm => absurd (fun _ => rfl) hm, by simp⟩
  | ran i hi hn =>
    have hframe := handlerEffect_frame i s.advancePc
    rw [hi]
    refine ⟨handlerEffect_k i _, handlerEffect_cfg i _, fun hm => ?mem, fun hne => ?fb, fun hne => ?i, fun hne => ?stk,
      fun hne => ?sp⟩
    case mem =>
      have hne : (handlerEffect i s.advancePc).mem ≠ s.mem := by
        intro heq
        refine hm fun p => ?_
        rw [State.readByte_tick, State.readByte, heq, handlerEffect_cfg]
        rfl
      simpa using hframe.mem.resolve_left hne
    case fb => simpa using hframe.fb.resolve_left hne
    case i => simpa using hframe.i.resolve_left hne
    case stk => simpa using hframe.stk.resolve_left hne
    case sp => simpa using hframe.sp.resolve_left hne

/-- A load changes no register above its last one (R145). -/
theorem State.getV_loadRegs_of_lt (s : State) {x r : Reg} (h : ¬ r ≤ x) : (s.loadRegs x).getV r = s.getV r := by
  rw [State.loadRegs, State.getV_foldl_loadReg, if_neg (mem_regsUpTo.not.mpr h)]

/-- Settles O53, by the outcome of the step and, for a handler's effect, by the instruction: its register writes are those of
R22's list. -/
theorem registersChangeOnlyAsDestinations : Obligations.RegistersChangeOnlyAsDestinations := by
  intro s t r h hne
  cases stepOutcome_of_step h with
  | held => exact absurd rfl hne
  | latched f => exact absurd rfl hne
  | idle => exact absurd rfl hne
  | ran i hi hn =>
    have hframe := handlerEffect_frame i s.advancePc
    rw [State.getV_tick, ← s.getV_advancePc] at hne
    refine ⟨i, hi, ?_⟩
    cases i with
    | ldImm x kk | addImm x kk | ldReg x y | orReg x y | andReg x y | xorReg x y | ldVxDt x =>
      by_contra hr
      exact hne ((s.advancePc.onlyRegister_setV x _).1 r hr)
    | rnd x kk =>
      by_contra hr
      exact hne (by simp [handlerEffect, hr])
    | addReg x y | subReg x y | shr x y | subnReg x y | shl x y =>
      by_contra hr
      obtain ⟨hx, hflag⟩ := not_or.mp hr
      exact hne (by simp [handlerEffect, hx, hflag])
    | drw x y n =>
      by_contra hr
      exact hne ((DrawFrame.drawSprite s.advancePc x y n).2 r hr)
    | ldVxK x =>
      by_contra hr
      rcases hk : s.advancePc.scanKeys with _ | key
      · exact hne (by simp [handlerEffect, hk])
      · exact hne (by simp [handlerEffect, hk, hr])
    | ldVxMem x =>
      by_contra hr
      exact hne (s.advancePc.getV_loadRegs_of_lt hr)
    | _ => exact absurd (congrArg (State.getV · r) hframe :) hne

/-! ## `pc` and the timers after a completed step -/

/-- A completed step of the current instruction is its effect and the tick. -/
theorem completed_step {s t : State} {i : Instr} (hi : s.current = some i) (h : step s = .next t) (hf : t.fault = none) :
    handlerFault i s = none ∧ t = (handlerEffect i s.advancePc).tick := by
  rcases hn : handlerFault i s with _ | f
  · rw [step_of_effect hi hn] at h
    cases h
    exact ⟨rfl, rfl⟩
  · rw [step_of_fault hi hn] at h
    cases h
    cases hf

/-- R109 as exact arithmetic: a skip in a step moves `pc` by 4, and by 2 when its condition does not hold. -/
theorem State.pc_skip_toNat {s : State} (hp : s.pc.toNat ≤ 0xFFE) (c : Bool) :
    (s.advancePc.skipIf c).pc.toNat = s.pc.toNat + if c then 4 else 2 := by
  cases c with
  | false => exact State.pc_advancePc_toNat hp
  | true =>
    simp only [State.skipIf_true, State.pc_advancePc, if_true]
    bv_omega

/-- The check of `2nnn` passes exactly with a free entry (R171). -/
theorem handlerFault_call_eq_none {s : State} {nnn : Word} : handlerFault (.call nnn) s = none ↔ s.sp.val < 16 := by
  simp [handlerFault]
  omega

/-- The check of `00EE` passes exactly with a non-empty stack (R172). -/
theorem handlerFault_ret_eq_none {s : State} : handlerFault .ret s = none ↔ s.sp.val ≠ 0 := by
  simp [handlerFault]

/-- R107: a 12-bit address and a byte add up without wrapping. -/
theorem computedJump_toNat {nnn : Word} (h : nnn.toNat < 4096) (b : Byte) :
    (nnn + zext16 b).toNat = nnn.toNat + b.toNat := by
  have := b.isLt
  rw [BitVec.toNat_add, zext16_toNat, Nat.mod_eq_of_lt (by omega)]

/-- The operands of a fetched instruction fit their fields (R72). -/
theorem wf_of_current {s : State} {i : Instr} (hi : s.current = some i) : i.wf = true := by
  obtain ⟨-, -, hd⟩ := State.current_eq_some.mp hi
  exact (decodedWordIsWellFormedAndReencodes _ _ hd).1

/-- Settles O10, by the instruction: a transfer writes `pc`, a skip may add 2, and every other effect leaves it advanced. -/
theorem pcAfterCompletedStep : Obligations.PcAfterCompletedStep := by
  intro s t i hi h hf
  obtain ⟨hn, ht⟩ := completed_step hi h hf
  have hpc : t.pc = (handlerEffect i s.advancePc).pc := by rw [ht, State.pc_tick]
  obtain ⟨-, hp, hd⟩ := State.current_eq_some.mp hi
  have hadv := State.pc_advancePc_toNat hp
  have hframe := handlerEffect_frame i s.advancePc
  cases i with
  | jp nnn => exact hpc
  | call nnn =>
    have hfree : s.advancePc.sp.val < 16 := handlerFault_call_eq_none (nnn := nnn).mp hn
    rw [hpc, handlerEffect, State.push_eq _ hfree]
    rfl
  | ret =>
    intro j hj
    have hsp : s.advancePc.sp.val ≠ 0 := by rw [State.sp_advancePc]; omega
    rw [hpc, handlerEffect, State.pop_eq hsp]
    simp [← hj]
  | jpV0 nnn =>
    rw [hpc]
    exact computedJump_toNat (of_decide_eq_true (wf_of_current hi)) _
  | seImm x kk | sneImm x kk | seReg x y | sneReg x y =>
    rw [hpc]
    refine (State.pc_skip_toNat hp _).trans ?_
    simp
  | skp x => rw [hpc]; exact State.pc_skip_toNat hp (s.keySet (s.getV x).toNat)
  | sknp x =>
    rw [hpc]
    refine (State.pc_skip_toNat hp (!s.keySet (s.getV x).toNat)).trans ?_
    cases s.keySet (s.getV x).toNat <;> rfl
  | ldVxK x =>
    constructor
    · rintro ⟨j, hj, hset⟩
      have hsome : s.scanKeys ≠ none := fun hnone => by simp [State.scanKeys_eq_none.mp hnone j hj] at hset
      obtain ⟨key, hkey⟩ := Option.ne_none_iff_exists'.mp hsome
      rw [hpc, handlerEffect, show s.advancePc.scanKeys = some key from hkey]
      exact hadv
    · intro hclear
      have hnone : s.advancePc.scanKeys = none := State.scanKeys_eq_none.mpr hclear
      rw [hpc, handlerEffect, hnone]
      exact BitVec.add_sub_cancel s.pc 2
  | _ => rw [hpc, ← hadv]; exact (congrArg (·.pc.toNat) hframe :)

/-- Settles O11, by the outcome of the step: the tick follows every effect, and only `Fx15` and `Fx18` write a timer. -/
theorem timersTickInEveryCompletedStep : Obligations.TimersTickInEveryCompletedStep := by
  intro s t h
  cases stepOutcome_of_step h with
  | held hs => exact ⟨fun hf => absurd hf hs, fun _ => ⟨rfl, rfl⟩⟩
  | latched f => exact ⟨nofun, fun _ => ⟨rfl, rfl⟩⟩
  | idle hs hp hd =>
    have hnone : s.current = none := by simp [State.current, hd]
    simp [hnone, hs]
  | ran i hi hn =>
    obtain ⟨hs, -⟩ := State.current_eq_some.mp hi
    have hframe := handlerEffect_frame i s.advancePc
    have hfault : (handlerEffect i s.advancePc).tick.fault = none := by simp [hs]
    refine ⟨fun _ => ⟨?setDt, ?dt, ?setSt, ?st, ?readDt⟩, fun hf => absurd hfault hf⟩
    case setDt =>
      intro x hx
      cases hi.symm.trans hx
      exact decTimer_toNat _
    case dt =>
      intro hx
      have hkept := hframe.dt.resolve_right fun ⟨x, h⟩ => hx x (h ▸ hi)
      rw [State.dt_tick, hkept]
      exact decTimer_toNat _
    case setSt =>
      intro x hx
      cases hi.symm.trans hx
      exact decTimer_toNat _
    case st =>
      intro hx
      have hkept := hframe.st.resolve_right fun ⟨x, h⟩ => hx x (h ▸ hi)
      rw [State.st_tick, hkept]
      exact decTimer_toNat _
    case readDt =>
      intro x hx
      cases hi.symm.trans hx
      exact s.advancePc.getV_setV_same x s.dt

/-! ## The invariant -/

/-- The information of every fault a step can latch lies in its range (R170 to R174). -/
theorem FaultCondition.wf {s : State} {f : Fault} (hs : s.fault = none) (hf : FaultCondition s f) : Fault.wf f = true := by
  have haddr (a : Word) : memSize ≤ max a.toNat 0x1000 ∧ max a.toNat 0x1000 ≤ 0xFFFF := by
    have := a.isLt
    unfold memSize
    omega
  rcases hf.origin hs with ⟨-, rfl⟩ | ⟨i, -, hif⟩
  · simpa [Fault.wf] using haddr s.pc
  · cases i with
    | ret | call nnn =>
      simp only [handlerFault] at hif
      split_ifs at hif
      cases hif; rfl
    | drw x y n | ldB x | ldMemVx x | ldVxMem x =>
      rw [(State.indexFault_eq_some.mp hif).2]
      simpa [Fault.wf] using haddr s.i
    | skp x | sknp x =>
      obtain ⟨hkey, rfl⟩ := keyIndexFault_eq_some.mp hif
      exact decide_eq_true hkey
    | _ => cases hif

/-- A completed step leaves `pc` at most 0x10FE (R25). -/
theorem pc_le_of_completed {s t : State} {i : Instr} (hstack : s.stackWf) (hi : s.current = some i)
    (h : step s = .next t) (hf : t.fault = none) : t.pc.toNat ≤ 0x10FE := by
  have hpc := pcAfterCompletedStep s t i hi h hf
  have hwf := wf_of_current hi
  obtain ⟨-, hp, -⟩ := State.current_eq_some.mp hi
  obtain ⟨hn, -⟩ := completed_step hi h hf
  cases i with
  | jp nnn | call nnn =>
    have : nnn.toNat < 4096 := of_decide_eq_true hwf
    rw [hpc]
    omega
  | ret =>
    have hsp := handlerFault_ret_eq_none.mp hn
    have hj : s.sp.val - 1 < 16 := by omega
    rw [hpc ⟨s.sp.val - 1, hj⟩ (by simp only; omega)]
    have := hstack ⟨s.sp.val - 1, hj⟩ (by simp only; omega)
    omega
  | jpV0 nnn =>
    have : nnn.toNat < 4096 := of_decide_eq_true hwf
    have := (s.getV 0).isLt
    simp only at hpc
    omega
  | ldVxK x =>
    obtain ⟨hset, hclear⟩ := hpc
    by_cases hk : ∃ j < 16, s.keySet j = true
    · have := hset hk
      omega
    · rw [hclear (by simpa using hk)]
      omega
  | seImm x kk | sneImm x kk | seReg x y | sneReg x y | skp x | sknp x =>
    simp only at hpc
    split_ifs at hpc <;> omega
  | _ => simp only at hpc; omega

/-- No effect of a checked handler takes memory out of its canonical form (R50). -/
theorem wf_mem_handlerEffect {i : Instr} {s : State} (hn : handlerFault i s = none) (hm : Memory.wf s.cfg s.mem = true) :
    Memory.wf s.cfg (handlerEffect i s).mem = true := by
  rcases (handlerEffect_frame i s).mem with hmem | ⟨x, rfl⟩ | ⟨x, rfl⟩
  · rwa [hmem]
  · have hin := State.indexFault_eq_none.mp hn
    refine State.wf_writeBytes _ ?_ hm
    simp [memSize]
    omega
  · have hin := State.indexFault_eq_none.mp hn
    refine State.wf_writeBytes _ ?_ hm
    simp [memSize, regsUpTo_length]
    omega

/-- No effect leaves a pushed address above 0x1000: `2nnn` pushes the advanced `pc`, `00EE` only lowers `sp` (R100, R102). -/
theorem stackWf_handlerEffect {i : Instr} {s : State} (hn : handlerFault i s = none) (hpc : s.pc.toNat ≤ 0x1000)
    (hstack : s.stackWf) : (handlerEffect i s).stackWf := by
  have hframe := handlerEffect_frame i s
  cases i with
  | call nnn =>
    have hfree : s.sp.val < 16 := handlerFault_call_eq_none.mp hn
    rw [handlerEffect, State.push_eq _ hfree]
    intro j hj
    simp only [Option.elim_some, State.stk_jumpTo, Fin.getElem_fin, Vector.getElem_set]
    split_ifs with hnew
    · exact hpc
    · exact hstack j (by simp at hj; omega)
  | ret =>
    rw [handlerEffect, State.pop_eq (handlerFault_ret_eq_none.mp hn)]
    intro j hj
    exact hstack j (by simp at hj; omega)
  | _ =>
    intro j hj
    rw [(congrArg State.sp hframe :)] at hj
    rw [(congrArg State.stk hframe :)]
    exact hstack j hj

/-- Settles O15, by the outcome of the step: each clause of the invariant is kept by every effect and by the tick. -/
theorem stepKeepsInvariant : Obligations.StepKeepsInvariant := by
  intro s t hinv h
  obtain ⟨hmem, hpc, hstack, hinfo⟩ := hinv
  cases stepOutcome_of_step h with
  | held => exact ⟨hmem, hpc, hstack, hinfo⟩
  | latched f hs hf =>
    refine ⟨hmem, hpc, hstack, fun g hg => ?_⟩
    cases hg
    exact hf.wf hs
  | idle hs hp hd =>
    refine ⟨hmem, ?_, hstack, hinfo⟩
    rw [State.pc_tick, State.pc_advancePc_toNat hp]
    omega
  | ran i hi hn =>
    obtain ⟨hs, hp, -⟩ := State.current_eq_some.mp hi
    have hf : (handlerEffect i s.advancePc).tick.fault = none := by simp [hs]
    rw [← handlerFault_advancePc] at hn
    refine ⟨?memory, pc_le_of_completed hstack hi h hf, ?stack, fun f hsome => by rw [hf] at hsome; cases hsome⟩
    case memory => simpa using wf_mem_handlerEffect hn hmem
    case stack => exact stackWf_handlerEffect hn (by rw [State.pc_advancePc_toNat hp]; omega) hstack

end Sys2Proof.Machine
end

section
/-! PROOFS. Statements of spec/42_alu.md with a flag output or a random byte. -/

namespace Sys2Proof.Machine

/-! ## Frames of two register writes -/

/-- A flag write before a register write changes that register and the flag only (R22). -/
theorem State.onlyRegisterAndFlag_setFlag_setV (s : State) (x : Reg) (c : Bool) (b : Byte) :
    OnlyRegisterAndFlag s ((s.setFlag c).setV x b) x :=
  ⟨fun r hx hflag => by simp [hx, hflag], rfl, fun _ => rfl⟩

/-- A flag write after a register write changes that register and the flag only (R22). -/
theorem State.onlyRegisterAndFlag_setV_setFlag (s : State) (x : Reg) (c : Bool) (b : Byte) :
    OnlyRegisterAndFlag s ((s.setV x b).setFlag c) x :=
  ⟨fun r hx hflag => by simp [hx, hflag], rfl, fun _ => rfl⟩

/-- Settles O20: the sum is written first, so that the flag write is the last word on `VF`. -/
theorem addRegistersWithCarry : Obligations.AddRegistersWithCarry := by
  intro s x y
  refine ⟨_, rfl, ?carry, fun hx => ?sum, s.onlyRegisterAndFlag_setV_setFlag x _ _⟩
  case carry => simp [carryOut]
  case sum => simp [hx, BitVec.toNat_add]

/-- The difference of two bytes as R127 and R129 write it. -/
theorem byte_sub_toNat (a b : Byte) : (a - b).toNat = (256 + a.toNat - b.toNat) % 256 := by
  have := b.isLt
  rw [BitVec.toNat_sub]
  congr 1
  omega

/-- The no-borrow flag as a number (R127, R129). -/
theorem flagByte_noBorrow_toNat (a b : Byte) : (flagByte (noBorrow a b)).toNat = if b.toNat < a.toNat then 1 else 0 := by
  simp [noBorrow]

/-- A flag write and then a difference of two registers as the flag write left them: what R127 and R129 share. -/
theorem State.setFlag_setV_sub (s : State) (x p q : Reg) (c : Bool) :
    (((s.setFlag c).setV x ((s.setFlag c).getV p - (s.setFlag c).getV q)).getV x).toNat =
      (256 + (if p = Reg.flag then flagByte c else s.getV p).toNat -
        (if q = Reg.flag then flagByte c else s.getV q).toNat) % 256 := by
  rw [State.getV_setV_same, byte_sub_toNat, State.getV_setFlag, State.getV_setFlag]

/-- A register write other than of the flag register leaves the flag written before. -/
theorem State.getV_flag_setFlag_setV (s : State) {x : Reg} (hx : x ≠ Reg.flag) (c : Bool) (b : Byte) :
    ((s.setFlag c).setV x b).getV Reg.flag = flagByte c := by
  simp [hx.symm]

/-- Settles O21: the flag is written first, so that an operand that is the flag register reads as the flag. -/
theorem subtractWithStrictNoBorrow : Obligations.SubtractWithStrictNoBorrow := by
  intro s x y
  refine ⟨⟨_, rfl, s.onlyRegisterAndFlag_setFlag_setV x _ _, ?sub⟩,
    ⟨_, rfl, s.onlyRegisterAndFlag_setFlag_setV x _ _, ?subn⟩⟩
  case sub =>
    have hres := s.setFlag_setV_sub x x y (noBorrow (s.getV x) (s.getV y))
    rintro f rfl
    rw [← flagByte_noBorrow_toNat, hres]
    refine ⟨fun hx => congrArg _ (s.getV_flag_setFlag_setV hx _ _), fun hx hy => ?_, fun hx hy => ?_, fun hx hy => ?_,
      fun hx hy => ?_⟩
    · rw [if_neg hx, if_neg hy]
    · rw [if_neg hx, if_pos hy]
    · rw [if_pos hx, if_neg hy]
    · rw [if_pos hx, if_pos hy, Nat.add_sub_cancel]
  case subn =>
    have hres := s.setFlag_setV_sub x y x (noBorrow (s.getV y) (s.getV x))
    rintro f rfl
    rw [← flagByte_noBorrow_toNat, hres]
    refine ⟨fun hx => congrArg _ (s.getV_flag_setFlag_setV hx _ _), fun hx hy => ?_, fun hx hy => ?_, fun hx hy => ?_,
      fun hx hy => ?_⟩
    · rw [if_neg hy, if_neg hx]
    · rw [if_pos hy, if_neg hx]
    · rw [if_neg hy, if_pos hx]
    · rw [if_pos hy, if_pos hx, Nat.add_sub_cancel]

/-- The bit that leaves to the right is the remainder of the halving (R128). -/
theorem flagByte_shiftedOutRight_toNat (a : Byte) : (flagByte (shiftedOutRight a)).toNat = a.toNat % 2 := by
  revert a; decide

/-- The bit that leaves to the left is the top bit (R130). -/
theorem flagByte_shiftedOutLeft_toNat (a : Byte) : (flagByte (shiftedOutLeft a)).toNat = a.toNat / 128 := by
  revert a; decide

/-- A flag shifted to the right leaves no bit. -/
theorem flagByte_shiftRight_toNat (c : Bool) : (flagByte c >>> 1).toNat = 0 := by cases c <;> rfl

/-- A flag shifted to the left loses no bit. -/
theorem flagByte_shiftLeft_toNat (c : Bool) : (flagByte c <<< 1).toNat = 2 * (flagByte c).toNat := by cases c <;> rfl

/-- Settles O22: the flag is written first, so that the flag register as operand shifts the flag just written. -/
theorem shiftsByOneWithShiftedOutFlag : Obligations.ShiftsByOneWithShiftedOutFlag := by
  intro s x y
  refine ⟨⟨_, rfl, s.onlyRegisterAndFlag_setFlag_setV x _ _, fun hx => ⟨?right, ?outRight⟩, fun hx => ?flagRight⟩,
    ⟨_, rfl, s.onlyRegisterAndFlag_setFlag_setV x _ _, fun hx => ⟨?left, ?outLeft⟩, fun hx => ?flagLeft⟩⟩
  case right =>
    rw [State.getV_setV_same, State.getV_setFlag, if_neg hx, BitVec.toNat_ushiftRight, Nat.shiftRight_eq_div_pow]
  case outRight => rw [s.getV_flag_setFlag_setV hx, flagByte_shiftedOutRight_toNat]
  case flagRight => rw [State.getV_setV_same, State.getV_setFlag, if_pos hx, flagByte_shiftRight_toNat]
  case left =>
    rw [State.getV_setV_same, State.getV_setFlag, if_neg hx, BitVec.toNat_shiftLeft, Nat.shiftLeft_eq, Nat.mul_comm]
  case outLeft => rw [s.getV_flag_setFlag_setV hx, flagByte_shiftedOutLeft_toNat]
  case flagLeft =>
    rw [State.getV_setV_same, State.getV_setFlag, if_pos hx, flagByte_shiftLeft_toNat, flagByte_shiftedOutLeft_toNat]

/-- What a draw takes and leaves: the byte on the port, which is consumed, or the next free value, which is counted (log 2). -/
theorem State.drawRnd_eq (s : State) : s.drawRnd =
    (s.rndIn.getD (Config.freeRnd s.rndDraws),
      { s with rndIn := none, rndDraws := if s.rndIn.isSome then s.rndDraws else s.rndDraws + 1 }) := by
  rcases h : s.rndIn with _ | b
  · simp [State.drawRnd, h]
  · simp [State.drawRnd, h]

/-- Settles O23: the handler is one draw and one register write. -/
theorem randomByteIsMasked : Obligations.RandomByteIsMasked := by
  intro s x kk
  refine ⟨s.drawRnd.1, _, rfl, State.getV_setV_same _ x _, fun r hr => ?others, fun b hb => ?presented, fun hnone => ?free,
    ?frame, fun p => ?memory⟩
  case others => simp [hr]
  case presented => simp [State.drawRnd_eq, hb]
  case free => simp [State.drawRnd_eq, hnone]
  case frame =>
    rw [State.drawRnd_eq]
    rfl
  case memory => simp

end Sys2Proof.Machine
end

section
/-! PROOFS. Statements of spec/41_control_flow.md: jumps, calls and returns. -/

namespace Sys2Proof.Machine

/-- A jump changes `pc` alone (R101, R107). -/
theorem State.pcOnly_jumpTo (s : State) (a : Word) : PcOnly s (s.jumpTo a) := ⟨rfl, s.readByte_jumpTo a⟩

/-- The word of a self-jump or any other `1nnn` at `pc` makes the jump current. -/
theorem State.current_jp {s : State} {nnn : Word} (hs : s.fault = none) (hp : s.pc.toNat ≤ 0xFFE) (hn : nnn.toNat < 4096)
    (hw : s.wordAt s.pc.toNat = 0x1000 ||| nnn) : s.current = some (.jp nnn) :=
  State.current_eq_some.mpr ⟨hs, hp, by rw [hw, decodeWord_jp hn]⟩

/-- The step of a jump is the jump and the tick (R101, R96). -/
theorem step_jp {s : State} {nnn : Word} (hi : s.current = some (.jp nnn)) : step s = .next (s.jumpTo nnn).tick :=
  step_of_effect hi rfl

/-- Settles O25: the handler writes `pc` alone, and the fetch from 0xFFF faults at its second byte. -/
theorem jumpSetsPc : Obligations.JumpSetsPc := by
  intro s nnn
  refine ⟨⟨s.jumpTo nnn, rfl, rfl, s.pcOnly_jumpTo nnn, fun htop => ?fetch⟩, fun hs hp hn hw => ?step⟩
  case fetch =>
    rw [State.fetch_eq, State.pc_jumpTo, htop]
    rfl
  case step =>
    exact ⟨_, step_jp (State.current_jp hs hp hn hw), rfl, decTimer_toNat s.dt, decTimer_toNat s.st, rfl, fun _ => rfl⟩

/-- Settles O26: the handler is one jump, and the sum does not wrap. -/
theorem computedJumpAddsV0 : Obligations.ComputedJumpAddsV0 := by
  intro s nnn hn
  exact ⟨s.jumpTo (nnn + zext16 (s.getV 0)), rfl, computedJump_toNat hn (s.getV 0), s.pcOnly_jumpTo _⟩

/-- Settles O28: the push writes the entry at `sp`. -/
theorem callPushesReturnAddress : Obligations.CallPushesReturnAddress := by
  intro s nnn hfree
  refine ⟨_, exec_call nnn hfree, rfl, rfl, fun j => ?entries, rfl, fun _ => rfl⟩
  case entries => simp [Vector.getElem_set, eq_comm]

/-- Settles O29: the pop reads the entry below `sp`. -/
theorem returnPopsReturnAddress : Obligations.ReturnPopsReturnAddress := by
  intro s hsp
  refine ⟨_, exec_ret (Nat.ne_of_gt hsp), Nat.sub_add_cancel hsp, fun j hj => ?entry, rfl, fun _ => rfl⟩
  case entry =>
    simp only [Fin.getElem_fin, hj]

/-- Settles O30: the return reads the entry that the call has just written. -/
theorem callThenReturnComesBack : Obligations.CallThenReturnComesBack := by
  intro s nnn hfree
  refine ⟨_, { s with stk := s.stk.set s.sp.val s.pc hfree }, exec_call nnn hfree, ?ret, rfl, rfl, rfl, fun _ => rfl⟩
  case ret =>
    rw [exec_ret (Nat.succ_ne_zero _)]
    simp [State.advancePc]

end Sys2Proof.Machine
end

section
/-! PROOFS. Statements of spec/43_index_memory.md: arithmetic on `I`, stores and loads. -/

namespace Sys2Proof.Machine

/-- Settles O32: the sum of two words is the sum of their values modulo 65536. -/
theorem addToIndexWrapsWithoutFlag : Obligations.AddToIndexWrapsWithoutFlag := by
  intro s x
  refine ⟨s.setI (s.i + zext16 (s.getV x)), rfl, ?sum, s.indexOnly_setI _⟩
  case sum => rw [State.i_setI, BitVec.toNat_add, zext16_toNat]

/-- Settles O33: the three digits are stored at consecutive addresses. -/
theorem decimalDigitsAreStored : Obligations.DecimalDigitsAreStored := by
  intro s x hin
  have hn : handlerFault (.ldB x) s = none := State.indexFault_of_inside (.inr hin)
  have hread {j : Nat} (hj : j < 3) : (s.storeDigits (s.getV x)).readByte (s.indexed j) =
      [hundredsDigit (s.getV x), tensDigit (s.getV x), onesDigit (s.getV x)][j] :=
    s.readByte_writeBytes_inside (s.indexed 0) hj
  refine ⟨s.storeDigits (s.getV x), exec_of_no_fault hn, ?hundreds, ?tens, ?ones, s.bytesOnly_writeBytes _ _⟩
  case hundreds => rw [hread (j := 0) (by decide)]; exact hundredsDigit_toNat _
  case tens => rw [hread (j := 1) (by decide)]; exact tensDigit_toNat _
  case ones => rw [hread (j := 2) (by decide)]; exact onesDigit_toNat _

/-- `Fx55` inside memory has its effect (R144). -/
theorem exec_ldMemVx {s : State} {x : Reg} (hin : s.indexed x.val ≤ 0xFFF) :
    exec (.ldMemVx x) s = .next (s.dumpRegs x) :=
  exec_of_no_fault (State.indexFault_of_inside (.inr hin))

/-- `Fx65` inside memory has its effect (R145). -/
theorem exec_ldVxMem {s : State} {x : Reg} (hin : s.indexed x.val ≤ 0xFFF) :
    exec (.ldVxMem x) s = .next (s.loadRegs x) :=
  exec_of_no_fault (State.indexFault_of_inside (.inr hin))

/-- The dump stores the byte of register `r` at `I + r` (R144). -/
theorem State.readByte_dumpRegs (s : State) {x r : Reg} (hr : r ≤ x) :
    (s.dumpRegs x).readByte (s.indexed r.val) = s.dumpByte x r := by
  have hlen : r.val < ((regsUpTo x).map (s.dumpByte x)).length := by
    rw [List.length_map, regsUpTo_length]
    exact Nat.lt_succ_of_le hr
  refine (s.readByte_writeBytes_inside (s.indexed 0) hlen).trans ?_
  simp [regsUpTo]

/-- The load gives register `r` the byte at `I + r` (R145). -/
theorem State.getV_loadRegs (s : State) {x r : Reg} (hr : r ≤ x) :
    (s.loadRegs x).getV r = s.readByte (s.indexed r.val) := by
  rw [State.loadRegs, State.getV_foldl_loadReg, if_pos (mem_regsUpTo.mpr hr)]
  rfl

/-- Settles O34: the bytes are stored in the registers' order, upward from `I`. -/
theorem registersAreDumped : Obligations.RegistersAreDumped := by
  intro s x hin
  refine ⟨s.dumpRegs x, exec_ldMemVx hin, fun r hr => s.readByte_dumpRegs hr, ?frame⟩
  case frame =>
    have hframe := s.bytesOnly_writeBytes (s.indexed 0) ((regsUpTo x).map (s.dumpByte x))
    rwa [List.length_map, regsUpTo_length] at hframe

/-- Settles O35: the fold over the registers up to `x` writes each of them once and no other. -/
theorem registersAreLoaded : Obligations.RegistersAreLoaded := by
  intro s x hin
  have hframe : s.loadRegs x = { s with v := (s.loadRegs x).v } := s.foldl_loadReg_only_v _
  refine ⟨s.loadRegs x, exec_ldVxMem hin, fun r hr => s.getV_loadRegs hr,
    fun r hr => s.getV_loadRegs_of_lt (not_le.mpr hr), hframe, fun p => ?memory⟩
  case memory => rw [hframe]; rfl

/-- A normative dump stores the registers themselves (R144, D11). -/
theorem State.dumpByte_normative {s : State} (h : s.cfg.fx55BugCompat = false) (x r : Reg) : s.dumpByte x r = s.getV r := by
  simp [State.dumpByte, h]

/-- A dump leaves `I` as it was (R144). -/
@[simp] theorem State.i_dumpRegs (s : State) (x : Reg) : (s.dumpRegs x).i = s.i := by
  rw [State.dumpRegs, State.writeBytes_only_mem]

/-- Settles O36: the load reads the bytes that the dump has stored, at the same `I`. -/
theorem loadAfterDumpRestoresRegisters : Obligations.LoadAfterDumpRestoresRegisters := by
  intro s x w hin hcompat
  have hindexed (r : Nat) : State.indexed { s.dumpRegs x with v := w } r = s.indexed r := by
    simp [State.indexed]
  refine ⟨s.dumpRegs x, State.loadRegs { s.dumpRegs x with v := w } x, exec_ldMemVx hin, exec_ldVxMem ?inside,
    fun r hr => ?loaded, fun r hr => State.getV_loadRegs_of_lt _ (not_le.mpr hr)⟩
  case inside => rwa [hindexed]
  case loaded =>
    rw [State.getV_loadRegs _ hr, hindexed, ← State.dumpByte_normative hcompat x r]
    exact s.readByte_dumpRegs hr

/-- Settles O37: the first two dumped bytes are the two that the fetch at `I` composes. -/
theorem storedCodeIsFetchedNext : Obligations.StoredCodeIsFetchedNext := by
  intro s x hx hin hcompat
  have hpc : ((s.dumpRegs x).jumpTo (s.dumpRegs x).i).pc.toNat = s.indexed 0 := by simp
  refine ⟨s.dumpRegs x, exec_ldMemVx hin, ?_⟩
  have hle : s.indexed 0 ≤ 0xFFE := by
    unfold State.indexed at hin ⊢
    omega
  have hfirst := s.readByte_dumpRegs (x := x) (r := 0) (Fin.zero_le x)
  have hsecond := s.readByte_dumpRegs (x := x) (r := 1) (Fin.mk_le_of_le_val hx)
  rw [State.dumpByte_normative hcompat] at hfirst hsecond
  rw [State.fetch_of_pc_le (hpc ▸ hle), hpc, State.wordAt_jumpTo, State.wordAt, ← hfirst, ← hsecond]
  rfl

end Sys2Proof.Machine
end

section
/-! PROOFS. Statements of spec/45_keys_timers.md: keys. -/

namespace Sys2Proof.Machine

/-- Settles O43: with the index in range each handler is a skip on its key. -/
theorem keySkipsTestTheNamedKey : Obligations.KeySkipsTestTheNamedKey := by
  intro s x hx
  have hn : keyIndexFault (s.getV x) = none := keyIndexFault_eq_none.mpr hx
  refine ⟨exec_skip (exec_of_no_fault hn) id id, exec_skip (exec_of_no_fault hn) ?_ ?_⟩
  · intro h; simp [h]
  · intro h; simp [h]

/-- Settles O44: the scan finds the highest set key, and none when no key is set. -/
theorem waitForKeyTakesHighestKeyOrRewinds : Obligations.WaitForKeyTakesHighestKeyOrRewinds := by
  intro s x
  refine ⟨fun key hkey hset habove => ?found, fun hclear => ?stalled⟩
  case found =>
    have hscan : s.scanKeys = some key :=
      State.scanKeys_eq_some.mpr ⟨hkey, hset, fun j hj hj16 => habove j hj16 hj⟩
    refine ⟨_, exec_ldVxK_some hscan, ?_, s.onlyRegister_setV x _⟩
    rw [State.getV_setV_same, BitVec.toNat_ofNat]
    omega
  case stalled =>
    exact ⟨_, exec_ldVxK_none (State.scanKeys_eq_none.mpr hclear), rfl, s.pcOnly_jumpTo _⟩

end Sys2Proof.Machine
end

section
/-! PROOFS. Statements about reset, the host's moves and whole runs
(spec/10_state.md R38, spec/60_exceptions.md, spec/70_reset_and_hazards.md, spec/45_keys_timers.md R162). -/

namespace Sys2Proof.Machine

/-! ## Reset -/

/-- Every field of the reset state is its value in the table of R38. -/
theorem State.hasResetValues_resetWith (c : Config) : (State.resetWith c).HasResetValues where
  pc := rfl
  screen := Framebuffer.pixel_clear
  registers r := by simp [State.getV, State.resetWith]
  index := rfl
  stackPointer := rfl
  stack j := by simp [State.resetWith]
  timers := ⟨rfl, rfl⟩
  keys _ := BitVec.getLsbD_zero
  fault := rfl

/-- The `reset` port gives the reset values to a machine in any state: it differs from reset in the counter of free random bytes
alone (R190, D16). -/
theorem State.hasResetValues_resetNow (s : State) : s.resetNow.HasResetValues :=
  have h := State.hasResetValues_resetWith s.cfg
  ⟨h.pc, h.screen, h.registers, h.index, h.stackPointer, h.stack, h.timers, h.keys, h.fault⟩

/-- Settles O13: reset and the reset port give every field its value in the table of R38. -/
theorem resetRegistersAndScreen : Obligations.ResetRegistersAndScreen := by
  refine ⟨State.hasResetValues_resetWith, rfl, fun sys => ?port⟩
  case port =>
    exact ⟨⟨sys.core.resetNow, .loading⟩, rfl, sys.core.hasResetValues_resetNow, rfl, fun _ => rfl, rfl, rfl, rfl⟩

/-- Settles O14, by `State.inv_resetWith`. -/
theorem resetSatisfiesInvariant : Obligations.ResetSatisfiesInvariant := State.inv_resetWith

/-! ## Moves -/

/-- Every move answers a next state. -/
theorem exists_move (keys : Word) (b : Byte) (s : State) : ∃ t, move keys b s = .next t := by
  obtain ⟨t, ht, -⟩ := exists_step ((s.writeKeys keys).supplyRnd b)
  exact ⟨t.withdrawRnd, move_of_step ht⟩

/-- Settles O55: each rule is a branch of the host's moves; the last byte loaded reads back. -/
theorem hostMovesOutsideTheRulesAreRefused : Obligations.HostMovesOutsideTheRulesAreRefused := by
  refine ⟨fun sys keys b byte a => ?late, fun sys a byte hphase ha => ?outside, fun sys a byte hlo hhi => ?inside,
    fun c image hlen => ?long⟩
  case late =>
    obtain ⟨t, ht⟩ := exists_move keys b sys.core
    exact ⟨⟨t, .running⟩, by rw [System.handle, ht], rfl⟩
  case outside =>
    have hrange : ¬ (progBase ≤ a ∧ a < memSize) := by
      unfold progBase memSize
      omega
    simp only [System.handle, hphase, if_neg hrange]
  case inside =>
    have hrange : progBase ≤ a ∧ a < memSize := by
      unfold progBase memSize
      omega
    refine ⟨⟨sys.core.resetNow, .loading⟩, ⟨sys.core.resetNow.writeByte a byte, .loading⟩, rfl, if_pos hrange, ?_, rfl⟩
    rw [State.readByte_writeByte, if_pos rfl]
  case long =>
    exact if_neg (not_le.mpr hlen)

/-- The moves of a list are the first one and then the rest. -/
theorem moves_cons {s t : State} {keys : Word} {b : Byte} (rest : List (Word × Byte)) (h : move keys b s = .next t) :
    moves ((keys, b) :: rest) s = moves rest t := by
  rw [moves, h]

/-- Nothing is withdrawn from an empty `rnd` port. -/
theorem State.withdrawRnd_of_none {s : State} (h : s.rndIn = none) : s.withdrawRnd = s := by
  rw [State.withdrawRnd, ← h]

/-- A move of a faulted machine writes the latch and nothing else (R97, D20). -/
theorem move_of_faulted {s : State} {f : Fault} (keys : Word) (b : Byte) (hf : s.fault = some f) (hr : s.rndIn = none) :
    move keys b s = .next (s.writeKeys keys) := by
  rw [move_of_step (step_faulted (s := (s.writeKeys keys).supplyRnd b) hf)]
  exact congrArg Host.Outcome.next (State.withdrawRnd_of_none (s := s.writeKeys keys) hr)

/-- Settles O51, by induction on the moves. -/
theorem faultedStateIsHeld : Obligations.FaultedStateIsHeld := by
  intro s f inputs hf hr
  induction inputs generalizing s with
  | nil => exact ⟨s, rfl, rfl⟩
  | cons input rest ih =>
    obtain ⟨t, hmoves, hframe⟩ := ih (s.writeKeys input.1) hf hr
    exact ⟨t, (moves_cons rest (move_of_faulted input.1 input.2 hf hr)).trans hmoves, hframe⟩

/-! ## Runs in which only the timers fall -/

/-- When a state with `Q` answers each of the moves with the tick alone and keeps `Q`, so does any number of them: the timers
fall by one for each move and not below 0. -/
theorem moves_tick_only {Q : State → Prop} (inputs : List (Word × Byte))
    (hmove : ∀ s, Q s → ∀ input ∈ inputs, move input.1 input.2 s = .next (s.writeKeys input.1).tick ∧
      Q (s.writeKeys input.1).tick) (s : State) (hs : Q s) :
    ∃ t, moves inputs s = .next t ∧ Q t ∧ t.dt.toNat = s.dt.toNat - inputs.length ∧
      t.st.toNat = s.st.toNat - inputs.length ∧ t = { s with dt := t.dt, st := t.st, k := t.k } := by
  induction inputs generalizing s with
  | nil => exact ⟨s, rfl, hs, rfl, rfl, rfl⟩
  | cons input rest ih =>
    obtain ⟨hfirst, hQ⟩ := hmove s hs input List.mem_cons_self
    obtain ⟨t, hmoves, ht, hdt, hst, hframe⟩ := ih (fun u hu p hp => hmove u hu p (List.mem_cons_of_mem _ hp)) _ hQ
    refine ⟨t, (moves_cons rest hfirst).trans hmoves, ht, ?_, ?_, hframe⟩
    · rw [hdt, State.dt_tick, decTimer_toNat, List.length_cons]
      simp only [State.dt_writeKeys]
      omega
    · rw [hst, State.st_tick, decTimer_toNat, List.length_cons]
      simp only [State.st_writeKeys]
      omega

/-- Going back by 2 undoes the advance of the fetch (R162). -/
theorem State.advancePc_jumpTo_back (s : State) : s.advancePc.jumpTo (s.advancePc.pc - 2) = s := by
  rw [State.pc_advancePc, BitVec.add_sub_cancel]
  rfl

/-- A move that only ticks: the inputs have come and the random byte is gone again. -/
theorem State.tick_supplied_withdrawRnd {s : State} (keys : Word) (b : Byte) (hr : s.rndIn = none) :
    ((s.writeKeys keys).supplyRnd b).tick.withdrawRnd = (s.writeKeys keys).tick :=
  State.withdrawRnd_of_none (s := (s.writeKeys keys).tick) hr

/-- R162 (a): a wait with no key set goes back to its own address. -/
theorem move_of_stalled {s : State} {x : Reg} (b : Byte) (hi : s.current = some (.ldVxK x)) (hr : s.rndIn = none) :
    move 0 b s = .next (s.writeKeys 0).tick := by
  obtain ⟨hs, -⟩ := State.current_eq_some.mp hi
  have hscan : ((s.writeKeys 0).supplyRnd b).advancePc.scanKeys = none :=
    State.scanKeys_eq_none.mpr fun _ _ => BitVec.getLsbD_zero
  have hstep := step_of_current ((s.current_supplied 0 b).trans hi) (exec_ldVxK_none (x := x) hscan) hs
  rw [move_of_step hstep, State.advancePc_jumpTo_back, State.tick_supplied_withdrawRnd 0 b hr]

/-- Settles O45: a stalled wait with no key set is stalled again after the move. -/
theorem stalledWaitOnlyTicksTheTimers : Obligations.StalledWaitOnlyTicksTheTimers := by
  intro s x bs hi hr hk
  have hrun := moves_tick_only (Q := fun t => t.current = some (.ldVxK x) ∧ t.rndIn = none ∧ t.k = 0)
    (bs.map fun b => ((0 : Word), b)) ?move s ⟨hi, hr, hk⟩
  case move =>
    rintro t ⟨hi, hr, -⟩ input hinput
    obtain ⟨b, -, rfl⟩ := List.mem_map.mp hinput
    exact ⟨move_of_stalled b hi hr, hi, hr, rfl⟩
  obtain ⟨t, hmoves, ⟨-, -, htk⟩, hdt, hst, hframe⟩ := hrun
  rw [List.length_map] at hdt hst
  refine ⟨t, hmoves, hdt, hst, ?_⟩
  rw [htk, ← hk] at hframe
  exact hframe

/-- What R205 asks of a finished program. -/
theorem State.finishedAt_iff {s : State} {here : Word} : s.finishedAt here = true ↔
    s.pc = here ∧ here.toNat ≤ 0xFFE ∧ s.fault = none ∧ s.wordAt here.toNat = 0x1000 ||| here := by
  simp [State.finishedAt, State.safe, and_assoc]

/-- R205: a finished program jumps to where it is. -/
theorem move_of_finished {s : State} {here : Word} (keys : Word) (b : Byte) (h : s.finishedAt here = true)
    (hr : s.rndIn = none) : move keys b s = .next (s.writeKeys keys).tick := by
  obtain ⟨rfl, hp, hs, hw⟩ := State.finishedAt_iff.mp h
  have hi : ((s.writeKeys keys).supplyRnd b).current = some (.jp s.pc) := State.current_jp hs hp (by omega) hw
  have hstay : ((s.writeKeys keys).supplyRnd b).jumpTo s.pc = (s.writeKeys keys).supplyRnd b := rfl
  rw [move_of_step (step_jp hi), hstay, State.tick_supplied_withdrawRnd keys b hr]

/-- Settles O56: a finished program is finished again after the move. -/
theorem finishedProgramStaysFinished : Obligations.FinishedProgramStaysFinished := by
  intro s here inputs h hr
  have hrun := moves_tick_only (Q := fun t => t.finishedAt here = true ∧ t.rndIn = none) inputs ?move s ⟨h, hr⟩
  case move =>
    rintro t ⟨h, hr⟩ input -
    exact ⟨move_of_finished input.1 input.2 h hr, h, hr⟩
  obtain ⟨t, hmoves, ⟨hfin, -⟩, hdt, hst, hframe⟩ := hrun
  exact ⟨t, hmoves, hfin, hdt, hst, hframe, fun p => by rw [hframe]; rfl⟩

/-! ## Runs that read no input -/

/-- The state as the host presents it to a step (R195 (1), (2)). -/
def State.present (s : State) (keys : Word) (b : Byte) : State := (s.writeKeys keys).supplyRnd b

theorem State.skipIf_present (s : State) (keys : Word) (b : Byte) (c : Bool) :
    (s.present keys b).skipIf c = (s.skipIf c).present keys b := by
  cases c <;> rfl

theorem State.writeBytes_present (s : State) (keys : Word) (b : Byte) (a : Nat) (bs : List Byte) :
    (s.present keys b).writeBytes a bs = (s.writeBytes a bs).present keys b := by
  induction bs generalizing s a with
  | nil => rfl
  | cons c rest ih => exact ih (s.writeByte a c) (a + 1)

theorem State.loadRegs_present (s : State) (keys : Word) (b : Byte) (x : Reg) :
    (s.present keys b).loadRegs x = (s.loadRegs x).present keys b :=
  List.foldl_hom (State.present · keys b) fun _ _ => rfl

theorem State.drawBit_present (x : Reg) (d : Byte) (cy : Fin 32) (s : State) (keys : Word) (b : Byte) (bit : Nat) :
    State.drawBit x d cy (s.present keys b) bit = (State.drawBit x d cy s bit).present keys b := by
  unfold State.drawBit
  split <;> rfl

theorem State.drawRow_present (x y : Reg) (s : State) (keys : Word) (b : Byte) (row : Nat) :
    State.drawRow x y (s.present keys b) row = (State.drawRow x y s row).present keys b :=
  List.foldl_hom (State.present · keys b) fun s bit => State.drawBit_present _ _ _ s keys b bit

theorem State.drawSprite_present (s : State) (keys : Word) (b : Byte) (x y : Reg) (n : Nat) :
    (s.present keys b).drawSprite x y n = (s.drawSprite x y n).present keys b :=
  List.foldl_hom (init := s.setFlag false) (State.present · keys b) fun s row => State.drawRow_present x y s keys b row

/-- No check reads an input. -/
theorem handlerFault_present (i : Instr) (s : State) (keys : Word) (b : Byte) :
    handlerFault i (s.present keys b) = handlerFault i s := by
  cases i <;> rfl

/-- The effect of an instruction that reads no input does not depend on the inputs and leaves them (R196). -/
theorem handlerEffect_present {i : Instr} (hi : readsInput (some i) = false) (s : State) (keys : Word) (b : Byte) :
    handlerEffect i (s.present keys b) = (handlerEffect i s).present keys b := by
  cases i with
  | skp x | sknp x | ldVxK x | rnd x kk => cases hi
  | ret =>
    by_cases h : s.sp.val = 0
    · simp only [handlerEffect, State.pop_empty h, State.pop_empty (s := s.present keys b) h]; rfl
    · simp only [handlerEffect, State.pop_eq h, State.pop_eq (s := s.present keys b) h]; rfl
  | call nnn =>
    by_cases h : s.sp.val < 16
    · simp only [handlerEffect, State.push_eq _ h, State.push_eq (s := s.present keys b) _ h]; rfl
    · have hfull : s.sp.val = 16 := by omega
      simp only [handlerEffect, State.push_full _ hfull, State.push_full (s := s.present keys b) _ hfull]; rfl
  | seImm x kk | sneImm x kk | seReg x y | sneReg x y => exact s.skipIf_present keys b _
  | drw x y n => exact s.drawSprite_present keys b x y n
  | ldB x | ldMemVx x => exact s.writeBytes_present keys b _ _
  | ldVxMem x => exact s.loadRegs_present keys b x
  | _ => rfl

/-- A step that executes no instruction that reads an input does not depend on the inputs and leaves them (R196). -/
theorem step_present {s t : State} (hfree : readsInput s.current = false) (h : step s = .next t) (keys : Word) (b : Byte) :
    step (s.present keys b) = .next (t.present keys b) := by
  cases stepOutcome_of_step h with
  | held hs =>
    obtain ⟨f, hf⟩ := Option.ne_none_iff_exists'.mp hs
    exact step_faulted (s := s.present keys b) hf
  | latched f hs hf =>
    obtain ⟨u, hu, -⟩ := exists_step (s.present keys b)
    have huf : u.fault = some f := (stepFaultsExactlyOnItsConditions (s.present keys b) u f hs hu).mpr hf
    rw [hu, (faultingStepChangesOnlyTheLatch (s.present keys b) u f hs hu huf).1]
    rfl
  | idle hs hp hd => exact step_unmatched (s := s.present keys b) hs hp hd
  | ran i hi hn =>
    have heffect := handlerEffect_present (hi ▸ hfree) s.advancePc keys b
    rw [step_of_effect (s := s.present keys b) hi ((handlerFault_present i s keys b).trans hn)]
    exact congrArg (fun u => Host.Outcome.next u.tick) heffect

/-- A move without input read is the step, with the new latch (R196). -/
theorem move_of_inputFree {s t : State} (hfree : readsInput s.current = false) (h : step s = .next t) (keys : Word)
    (b : Byte) : move keys b s = .next (t.withdrawRnd.writeKeys keys) :=
  move_of_step (step_present hfree h keys b)

/-- The latch before a run is in its end only if there is no move, since the first move overwrites it (R195 (1)). -/
theorem moves_writeKeys {s t : State} (inputs : List (Word × Byte)) (h : moves inputs s = .next t) (keys : Word) :
    ∃ u, moves inputs (s.writeKeys keys) = .next u ∧ u = { t with k := u.k } := by
  cases inputs with
  | nil =>
    cases h
    exact ⟨s.writeKeys keys, rfl, rfl⟩
  | cons input rest => exact ⟨t, h, rfl⟩

/-- Settles O57, by induction on the moves: after each, the two runs differ in the latch alone. -/
theorem inputFreeRunIgnoresInputs : Obligations.InputFreeRunIgnoresInputs := by
  intro inputs others s _ hfree hlen
  induction inputs generalizing others s with
  | nil =>
    rw [List.length_nil] at hlen
    rw [List.eq_nil_of_length_eq_zero hlen.symm]
    exact ⟨s, s, rfl, rfl, rfl⟩
  | cons input rest ih =>
    cases others with
    | nil => cases hlen
    | cons other rest' =>
      obtain ⟨hfirst, hrest⟩ := hfree
      obtain ⟨v, hv, -⟩ := exists_step s
      have hmove := move_of_inputFree hfirst hv input.1 input.2
      have hmove' := move_of_inputFree hfirst hv other.1 other.2
      obtain ⟨t, u, ht, hu, hk⟩ := ih rest' (v.withdrawRnd.writeKeys input.1) rfl (hrest _ hmove) (Nat.succ_inj.mp hlen)
      obtain ⟨u', hu', hk'⟩ := moves_writeKeys rest' hu other.1
      refine ⟨t, u', (moves_cons rest hmove).trans ht, (moves_cons rest' hmove').trans hu', ?_⟩
      rw [hk', hk]

end Sys2Proof.Machine
end

section
/-! PROOFS. Statements of spec/44_display.md: `Dxyn`. -/

namespace Sys2Proof.Machine

/-! ## The order of drawing -/

/-- Bit `bit` of row `row` is drawn before bit `b` of row `r` (R151). -/
def DrawnBefore (row bit r b : Nat) : Prop := row < r ∨ row = r ∧ bit < b

/-- Has the first collision happened before bit `b` of row `r` is drawn? -/
def collidedBefore (first : Option (Nat × Nat)) (r b : Nat) : Bool :=
  match first with
  | none => false
  | some p => decide (p.1 < r ∨ p.1 = r ∧ p.2 < b)

/-- Where a bit lands, by whether the first collision is before its row and before itself. -/
theorem State.landing_eq (s : State) (x y : Reg) (first : Option (Nat × Nat)) (row bit : Nat) :
    s.landing x y first row bit =
      (Fin.ofNat 64 (s.liveCoordinate x (collidedBefore first row bit) + bit),
        Fin.ofNat 32 (s.liveCoordinate y (collidedBefore first row 0) + row)) := by
  rcases first with _ | ⟨r, b⟩
  · rfl
  · simp [State.landing, collidedBefore]

/-- While nothing has collided, a bit lands where it does without any collision. -/
theorem State.landing_of_not_collided (s : State) (x y : Reg) {first : Option (Nat × Nat)} {row bit : Nat}
    (h : collidedBefore first row bit = false) : s.landing x y first row bit = s.landing x y none row bit := by
  have h0 : collidedBefore first row 0 = false := by
    rcases first with _ | ⟨r, b⟩
    · rfl
    · simp [collidedBefore] at h ⊢
      omega
  rw [State.landing_eq, State.landing_eq, h, h0]
  rfl

/-- Some bit is the first that hits, or none hits. -/
theorem State.exists_firstCollision (s : State) (x y : Reg) (n : Nat) : ∃ first, s.FirstCollision x y n first := by
  by_cases h : ∃ p : ℕ ×ₗ ℕ, s.Hits x y n (ofLex p).1 (ofLex p).2
  · obtain ⟨p, hp, hmin⟩ :=
      WellFounded.has_min (wellFounded_lt (α := ℕ ×ₗ ℕ)) {p | s.Hits x y n (ofLex p).1 (ofLex p).2} h
    refine ⟨some (ofLex p), hp, fun row bit hbefore hhit => hmin (toLex (row, bit)) hhit ?_⟩
    exact Prod.Lex.lt_iff.mpr hbefore
  · exact ⟨none, fun row bit hhit => h ⟨toLex (row, bit), hhit⟩⟩

/-- Positions that move by at most one, from some index on, stay distinct modulo any number they do not reach. -/
theorem shifted_injective {base d m i j : Nat} {c : Nat → Bool} (hd : d ≤ 1)
    (hmono : ∀ i j, i ≤ j → c i = true → c j = true) (hi : i + 1 < m) (hj : j + 1 < m)
    (h : (base + (if c i then d else 0) + i) % m = (base + (if c j then d else 0) + j) % m) : i = j := by
  have hbound (k : Nat) : (if c k then d else 0) ≤ 1 := by split_ifs <;> omega
  have hsame : (if c i then d else 0) + i = (if c j then d else 0) + j := by
    rw [Nat.add_assoc, Nat.add_assoc] at h
    have hbi := hbound i
    have hbj := hbound j
    exact (Nat.ModEq.add_left_cancel' base h).eq_of_lt_of_lt (by omega) (by omega)
  have hle {i j : Nat} (hij : i ≤ j) : (if c i then d else 0) ≤ (if c j then d else 0) := by
    by_cases hci : c i = true
    · rw [if_pos hci, if_pos (hmono i j hij hci)]
    · rw [if_neg hci]
      exact Nat.zero_le _
  rcases Nat.lt_trichotomy i j with hlt | heq | hgt
  · have := hle hlt.le
    omega
  · exact heq
  · have := hle hgt.le
    omega

/-- A live coordinate moves by at most one when a collision happens (R151 (f)). -/
theorem State.liveCoordinate_shift (s : State) (x : Reg) :
    ∃ d ≤ 1, ∀ c, s.liveCoordinate x c = s.liveCoordinate x false + if c then d else 0 := by
  by_cases hx : x = Reg.flag
  · exact ⟨1, le_rfl, fun c => by simp [State.liveCoordinate, hx]⟩
  · exact ⟨0, Nat.zero_le 1, fun c => by simp [State.liveCoordinate, hx]⟩

/-- What has collided stays collided. -/
theorem collidedBefore_mono {first : Option (Nat × Nat)} {r b r' b' : Nat} (h : r < r' ∨ r = r' ∧ b ≤ b')
    (hc : collidedBefore first r b = true) : collidedBefore first r' b' = true := by
  rcases first with _ | p
  · cases hc
  · simp only [collidedBefore, decide_eq_true_eq] at hc ⊢
    omega

/-- Two bits of a sprite of fewer than 16 rows never land on the same pixel: 8 columns and 16 rows, shifted by at most one from
some bit on, do not wrap onto themselves. -/
theorem State.landing_injective (s : State) (x y : Reg) (first : Option (Nat × Nat)) {row bit row' bit' : Nat}
    (hrow : row < 16) (hrow' : row' < 16) (hbit : bit < 8) (hbit' : bit' < 8)
    (h : s.landing x y first row bit = s.landing x y first row' bit') : row = row' ∧ bit = bit' := by
  obtain ⟨dx, hdx, hx⟩ := s.liveCoordinate_shift x
  obtain ⟨dy, hdy, hy⟩ := s.liveCoordinate_shift y
  rw [State.landing_eq, State.landing_eq, Prod.mk.injEq] at h
  obtain ⟨hcol, hline⟩ := h
  have hrows : row = row' := by
    rw [hy, hy (collidedBefore first row' 0)] at hline
    exact shifted_injective (c := fun r => collidedBefore first r 0) hdy
      (fun i j hij => collidedBefore_mono (by omega)) (by omega) (by omega) (congrArg Fin.val hline)
  subst hrows
  rw [hx, hx (collidedBefore first row bit')] at hcol
  exact ⟨rfl, shifted_injective (c := fun b => collidedBefore first row b) hdx
    (fun i j hij => collidedBefore_mono (.inr ⟨rfl, hij⟩)) (by omega) (by omega) (congrArg Fin.val hcol)⟩

/-! ## The first collision -/

/-- One more bit: the first collision is before it, or at it. -/
theorem collidedBefore_succ (first : Option (Nat × Nat)) (r b : Nat) :
    collidedBefore first r (b + 1) = (collidedBefore first r b || decide (first = some (r, b))) := by
  rcases first with _ | ⟨r', b'⟩
  · rfl
  · rw [Bool.eq_iff_iff]
    simp [collidedBefore]
    omega

/-- While nothing has collided, the bit to be drawn is the first collision exactly when it hits. -/
theorem State.FirstCollision.eq_some_iff {s : State} {x y : Reg} {n : Nat} {first : Option (Nat × Nat)}
    (hfirst : s.FirstCollision x y n first) {r b : Nat} (h : collidedBefore first r b = false) :
    first = some (r, b) ↔ s.Hits x y n r b := by
  rcases first with _ | ⟨r', b'⟩
  · exact ⟨nofun, fun hhit => absurd hhit (hfirst r b)⟩
  · obtain ⟨hhit, hmin⟩ := hfirst
    simp only [collidedBefore, decide_eq_false_iff_not] at h
    constructor
    · intro heq
      cases heq
      exact hhit
    · intro hhit'
      have hnot : ¬ (r < r' ∨ r = r' ∧ b < b') := fun hlt => hmin r b hlt hhit'
      rw [Option.some_inj, Prod.mk.injEq]
      omega

/-- The first collision is at a bit of the sprite. -/
theorem State.FirstCollision.lt {s : State} {x y : Reg} {n : Nat} {p : Nat × Nat} (h : s.FirstCollision x y n (some p)) :
    p.1 < n ∧ p.2 < 8 := ⟨h.1.1, h.1.2.1⟩

/-! ## The state while a sprite is drawn -/

/-- The bits drawn before bit `b` of row `r` cover the pixel. -/
def State.DrawnOver (s : State) (x y : Reg) (first : Option (Nat × Nat)) (r b : Nat) (cx : Fin 64) (cy : Fin 32) : Prop :=
  ∃ row bit, DrawnBefore row bit r b ∧ bit < 8 ∧ s.SpriteHas row bit ∧ s.landing x y first row bit = (cx, cy)

/-- The state `t` in which the bits before bit `b` of row `r` have been drawn on `s`: `VF` says whether one has collided, and the
framebuffer is that of `s` XORed with those bits. -/
structure State.DrawnUpTo (s : State) (x y : Reg) (first : Option (Nat × Nat)) (r b : Nat) (t : State) : Prop where
  frame : DrawFrame s t
  flag : t.getV Reg.flag = flagByte (collidedBefore first r b)
  pixels : ∀ cx cy, t.fb.pixel cx cy = true ↔ Xor (s.fb.pixel cx cy = true) (s.DrawnOver x y first r b cx cy)

/-- A coordinate register reads as its live coordinate (R151). -/
theorem State.DrawnUpTo.getV_toNat {s t : State} {x y : Reg} {first : Option (Nat × Nat)} {r b : Nat}
    (h : s.DrawnUpTo x y first r b t) (z : Reg) : (t.getV z).toNat = s.liveCoordinate z (collidedBefore first r b) := by
  unfold State.liveCoordinate
  split_ifs with hz hc
  · rw [hz, h.flag, hc]; rfl
  · rw [hz, h.flag, Bool.eq_false_iff.mpr hc]; rfl
  · rw [h.frame.2 z hz]

/-- Drawing begins with the flag cleared and no bit drawn. -/
theorem State.drawnUpTo_start (s : State) (x y : Reg) (first : Option (Nat × Nat)) :
    s.DrawnUpTo x y first 0 0 (s.setFlag false) where
  frame := DrawFrame.setFlag s false
  flag := by
    have hnone : collidedBefore first 0 0 = false := by
      rcases first with _ | p
      · rfl
      · simp [collidedBefore]
    rw [hnone, State.getV_setFlag, if_pos rfl]
  pixels cx cy := by
    have hnone : ¬ s.DrawnOver x y first 0 0 cx cy := by
      rintro ⟨row, bit, hbefore, -⟩
      unfold DrawnBefore at hbefore
      omega
    simp [hnone, Xor]

/-- The pixels covered by one more bit. -/
theorem State.drawnOver_succ {s : State} {x y : Reg} {first : Option (Nat × Nat)} {r b : Nat} (hb : b < 8) {cx : Fin 64}
    {cy : Fin 32} : s.DrawnOver x y first r (b + 1) cx cy ↔
      s.DrawnOver x y first r b cx cy ∨ (s.SpriteHas r b ∧ s.landing x y first r b = (cx, cy)) := by
  constructor
  · rintro ⟨row, bit, hbefore, hbit, hhas, hland⟩
    by_cases hlast : row = r ∧ bit = b
    · obtain ⟨rfl, rfl⟩ := hlast
      exact .inr ⟨hhas, hland⟩
    · refine .inl ⟨row, bit, ?_, hbit, hhas, hland⟩
      unfold DrawnBefore at hbefore ⊢
      omega
  · rintro (⟨row, bit, hbefore, hbit, hhas, hland⟩ | ⟨hhas, hland⟩)
    · refine ⟨row, bit, ?_, hbit, hhas, hland⟩
      unfold DrawnBefore at hbefore ⊢
      omega
    · exact ⟨r, b, .inr ⟨rfl, Nat.lt_succ_self b⟩, hb, hhas, hland⟩

/-- No earlier bit covers the pixel on which a bit lands. -/
theorem State.not_drawnOver_landing (s : State) (x y : Reg) (first : Option (Nat × Nat)) {r b : Nat} (hr : r < 16)
    (hb : b < 8) : ¬ s.DrawnOver x y first r b (s.landing x y first r b).1 (s.landing x y first r b).2 := by
  rintro ⟨row, bit, hbefore, hbit, -, hland⟩
  unfold DrawnBefore at hbefore
  have hrow : row < 16 := by omega
  obtain ⟨hsame, hsame'⟩ := s.landing_injective x y first hrow hr hbit hb hland
  omega

/-- A bit that is 0 draws nothing. -/
theorem State.DrawnUpTo.skip {s t : State} {x y : Reg} {n : Nat} {first : Option (Nat × Nat)} {r b : Nat}
    (hfirst : s.FirstCollision x y n first) (hb : b < 8) (h : s.DrawnUpTo x y first r b t) (hhas : ¬ s.SpriteHas r b) :
    s.DrawnUpTo x y first r (b + 1) t where
  frame := h.frame
  flag := by
    have hnot : first ≠ some (r, b) := by
      rintro rfl
      exact hhas hfirst.1.2.2.1
    rw [h.flag, collidedBefore_succ, decide_eq_false hnot, Bool.or_false]
  pixels cx cy := by
    rw [h.pixels, State.drawnOver_succ hb]
    simp [hhas]

/-- A bit that is 1 toggles the pixel on which it lands, and reports a collision when that pixel was set on the screen. -/
theorem State.DrawnUpTo.hit {s t : State} {x y : Reg} {n : Nat} {first : Option (Nat × Nat)} {r b : Nat}
    (hfirst : s.FirstCollision x y n first) (hn : n < 16) (hr : r < n) (hb : b < 8) (h : s.DrawnUpTo x y first r b t)
    (hhas : s.SpriteHas r b) :
    s.DrawnUpTo x y first r (b + 1) (t.hitPixel (s.landing x y first r b).1 (s.landing x y first r b).2) where
  frame := h.frame.trans (DrawFrame.hitPixel ..)
  flag := by
    have hpixel : t.fb.pixel (s.landing x y first r b).1 (s.landing x y first r b).2 =
        s.fb.pixel (s.landing x y first r b).1 (s.landing x y first r b).2 := by
      rw [Bool.eq_iff_iff, h.pixels]
      simp [s.not_drawnOver_landing x y first (by omega : r < 16) hb, Xor]
    rw [State.getV_hitPixel, if_pos rfl, h.flag, flagByte_or, hpixel, collidedBefore_succ]
    rcases hc : collidedBefore first r b with _ | _
    · have hhits : first = some (r, b) ↔ _ := hfirst.eq_some_iff hc
      congr 1
      rw [Bool.eq_iff_iff, Bool.false_or, Bool.false_or, decide_eq_true_eq, hhits, State.landing_of_not_collided s x y hc]
      exact ⟨fun hp => ⟨hr, hb, hhas, hp⟩, fun ⟨_, _, _, hp⟩ => hp⟩
    · simp
  pixels cx cy := by
    have hp := h.pixels cx cy
    have hcomm : (cx = (s.landing x y first r b).1 ∧ cy = (s.landing x y first r b).2) ↔
        s.landing x y first r b = (cx, cy) := by
      rw [Prod.ext_iff, eq_comm, @eq_comm _ cy]
    rw [State.fb_hitPixel, Framebuffer.pixel_toggle, State.drawnOver_succ hb]
    by_cases hland : s.landing x y first r b = (cx, cy)
    · have hnot := s.not_drawnOver_landing x y first (by omega : r < 16) hb
      rw [hland] at hnot
      rw [decide_eq_true (hcomm.mpr hland)]
      simpa [hland, hnot, hhas, Xor] using hp
    · rw [decide_eq_false (hcomm.not.mpr hland), Bool.xor_false]
      simpa [hland] using hp

/-- A property of the index that each step of a counted fold keeps holds at its end. -/
theorem foldl_range_keeps {P : Nat → State → Prop} {f : State → Nat → State} {s : State} (h0 : P 0 s) (m : Nat)
    (hstep : ∀ k < m, ∀ t, P k t → P (k + 1) (f t k)) : P m ((List.range m).foldl f s) := by
  induction m with
  | zero => exact h0
  | succ m ih =>
    rw [List.range_succ, List.foldl_append]
    exact hstep m (Nat.lt_succ_self m) _ (ih fun k hk => hstep k (Nat.lt_succ_of_lt hk))

/-- Drawing one bit, in the row's line (R151). -/
theorem State.DrawnUpTo.drawBit {s t : State} {x y : Reg} {n : Nat} {first : Option (Nat × Nat)} {r b : Nat}
    (hfirst : s.FirstCollision x y n first) (hn : n < 16) (hr : r < n) (hb : b < 8) (h : s.DrawnUpTo x y first r b t) :
    s.DrawnUpTo x y first r (b + 1)
      (State.drawBit x (s.readByte (s.indexed r)) (s.landing x y first r b).2 t b) := by
  have hcolumn : columnOf (t.getV x) b = (s.landing x y first r b).1 := by
    rw [State.landing_eq, columnOf, h.getV_toNat]
  unfold State.drawBit
  rw [hcolumn]
  split_ifs with hhas
  · exact h.hit hfirst hn hr hb hhas
  · exact h.skip hfirst hb hhas

/-- The line of a row is the same for all its bits: it is read once (R151). -/
theorem State.landing_line (s : State) (x y : Reg) (first : Option (Nat × Nat)) (r b b' : Nat) :
    (s.landing x y first r b).2 = (s.landing x y first r b').2 := by
  rw [State.landing_eq, State.landing_eq]

/-- A row drawn to its eighth bit is a row drawn. -/
theorem State.DrawnUpTo.next_row {s t : State} {x y : Reg} {n : Nat} {first : Option (Nat × Nat)} {r : Nat}
    (hfirst : s.FirstCollision x y n first) (h : s.DrawnUpTo x y first r 8 t) : s.DrawnUpTo x y first (r + 1) 0 t where
  frame := h.frame
  flag := by
    have hsame : collidedBefore first (r + 1) 0 = collidedBefore first r 8 := by
      rcases first with _ | p
      · rfl
      · have hlt := hfirst.lt
        rw [Bool.eq_iff_iff]
        simp only [collidedBefore, decide_eq_true_eq]
        omega
    rw [h.flag, hsame]
  pixels cx cy := by
    have hsame : s.DrawnOver x y first (r + 1) 0 cx cy ↔ s.DrawnOver x y first r 8 cx cy := by
      refine exists_congr fun row => exists_congr fun bit => ?_
      unfold DrawnBefore
      constructor
      · rintro ⟨hbefore, hbit, hrest⟩
        exact ⟨by omega, hbit, hrest⟩
      · rintro ⟨hbefore, hbit, hrest⟩
        exact ⟨by omega, hbit, hrest⟩
    rw [h.pixels, hsame]

/-- Drawing one row (R151). -/
theorem State.DrawnUpTo.drawRow {s t : State} {x y : Reg} {n : Nat} {first : Option (Nat × Nat)} {r : Nat}
    (hfirst : s.FirstCollision x y n first) (hn : n < 16) (hr : r < n) (h : s.DrawnUpTo x y first r 0 t) :
    s.DrawnUpTo x y first (r + 1) 0 (State.drawRow x y t r) := by
  have hline : rowOf (t.getV y) r = (s.landing x y first r 0).2 := by
    rw [State.landing_eq, rowOf, h.getV_toNat]
  have hbyte : t.readByte (t.indexed r) = s.readByte (s.indexed r) := by
    rw [h.frame.readByte, State.indexed, h.frame.i, State.indexed]
  unfold State.drawRow
  rw [hline, hbyte]
  refine State.DrawnUpTo.next_row hfirst (foldl_range_keeps h 8 fun b hb u hu => ?_)
  rw [s.landing_line x y first r 0 b]
  exact hu.drawBit hfirst hn hr hb

/-- Drawing the whole sprite (R151). -/
theorem State.drawnUpTo_drawSprite {s : State} {x y : Reg} {n : Nat} {first : Option (Nat × Nat)}
    (hfirst : s.FirstCollision x y n first) (hn : n < 16) : s.DrawnUpTo x y first n 0 (s.drawSprite x y n) :=
  foldl_range_keeps (P := fun r t => s.DrawnUpTo x y first r 0 t) (s.drawnUpTo_start x y first) n
    fun _ hr _ ht => ht.drawRow hfirst hn hr

/-! ## The statements -/

/-- `Dxyn` with its rows in memory has its effect. -/
theorem exec_drw {s : State} (x y : Reg) {n : Nat} (hin : n = 0 ∨ s.indexed (n - 1) ≤ 0xFFF) :
    exec (.drw x y n) s = .next (s.drawSprite x y n) :=
  exec_of_no_fault (State.indexFault_of_inside hin)

/-- The frame of a draw (R151). -/
theorem State.screenAndFlagOnly_drawSprite (s : State) (x y : Reg) (n : Nat) :
    ScreenAndFlagOnly s (s.drawSprite x y n) :=
  have hframe := DrawFrame.drawSprite s x y n
  ⟨hframe.1, hframe.2, hframe.readByte⟩

/-- After all rows there has been a collision exactly when there is a first one. -/
theorem State.FirstCollision.collidedBefore_end {s : State} {x y : Reg} {n : Nat} {first : Option (Nat × Nat)}
    (h : s.FirstCollision x y n first) : collidedBefore first n 0 = first.isSome := by
  rcases first with _ | p
  · rfl
  · simp [collidedBefore, h.lt.1]

/-- The bits drawn before row `n` are those of the first `n` rows. -/
theorem State.drawnOver_rows {s : State} {x y : Reg} {first : Option (Nat × Nat)} {n : Nat} {cx : Fin 64} {cy : Fin 32} :
    s.DrawnOver x y first n 0 cx cy ↔
      ∃ row < n, ∃ bit < 8, s.SpriteHas row bit ∧ s.landing x y first row bit = (cx, cy) := by
  constructor
  · rintro ⟨row, bit, hbefore, hbit, hrest⟩
    unfold DrawnBefore at hbefore
    exact ⟨row, by omega, bit, hbit, hrest⟩
  · rintro ⟨row, hrow, bit, hbit, hrest⟩
    exact ⟨row, bit, .inl hrow, hbit, hrest⟩

/-- What a draw leaves, by the first collision. -/
theorem State.drawSprite_spec {s : State} {x y : Reg} {n : Nat} {first : Option (Nat × Nat)}
    (hfirst : s.FirstCollision x y n first) (hn : n < 16) :
    (s.drawSprite x y n).getV Reg.flag = flagByte first.isSome ∧
      ∀ cx cy, (s.drawSprite x y n).fb.pixel cx cy = true ↔ Xor (s.fb.pixel cx cy = true)
        (∃ row < n, ∃ bit < 8, s.SpriteHas row bit ∧ s.landing x y first row bit = (cx, cy)) := by
  obtain ⟨-, hflag, hpixels⟩ := State.drawnUpTo_drawSprite hfirst hn
  refine ⟨by rw [hflag, hfirst.collidedBefore_end], fun cx cy => ?_⟩
  rw [hpixels, State.drawnOver_rows]

/-- Settles O58: the first collision decides where every bit lands, and distinct bits land on distinct pixels. -/
theorem drawReadsItsCoordinatesLive : Obligations.DrawReadsItsCoordinatesLive := by
  intro s x y n hn hin
  obtain ⟨first, hfirst⟩ := s.exists_firstCollision x y n
  obtain ⟨hflag, hpixels⟩ := State.drawSprite_spec hfirst hn
  exact ⟨s.drawSprite x y n, first, exec_drw x y hin, hfirst, by rw [hflag, flagByte_toNat], hpixels,
    s.screenAndFlagOnly_drawSprite x y n⟩

/-- When every bit lands at a fixed distance from `(x0, y0)`, the bits that are 1 are the sprite's image there (R151). -/
theorem spriteCovers_iff_landing {s : State} {x y : Reg} {first : Option (Nat × Nat)} {x0 y0 n : Nat} {cx : Fin 64}
    {cy : Fin 32}
    (h : ∀ row bit, s.landing x y first row bit = (Fin.ofNat 64 (x0 + bit), Fin.ofNat 32 (y0 + row))) :
    (∃ row < n, ∃ bit < 8, s.SpriteHas row bit ∧ s.landing x y first row bit = (cx, cy)) ↔
      SpriteCovers s x0 y0 n cx cy := by
  have hplace (row bit : Nat) : s.landing x y first row bit = (cx, cy) ↔
      (x0 + bit) % 64 = cx.val ∧ (y0 + row) % 32 = cy.val := by
    rw [h, Prod.mk.injEq, Fin.ext_iff, Fin.ext_iff, Fin.val_ofNat, Fin.val_ofNat]
  constructor
  · rintro ⟨row, hrow, bit, hbit, hhas, hland⟩
    obtain ⟨hx, hy⟩ := (hplace row bit).mp hland
    exact ⟨row, hrow, bit, hbit, hx, hy, hhas⟩
  · rintro ⟨row, hrow, bit, hbit, hx, hy, hhas⟩
    exact ⟨row, hrow, bit, hbit, hhas, (hplace row bit).mpr ⟨hx, hy⟩⟩

/-- An ordinary coordinate register reads the same all the time. -/
theorem State.landing_ordinary (s : State) {x y : Reg} (hx : x ≠ Reg.flag) (hy : y ≠ Reg.flag)
    (first : Option (Nat × Nat)) (row bit : Nat) : s.landing x y first row bit =
      (Fin.ofNat 64 ((s.getV x).toNat + bit), Fin.ofNat 32 ((s.getV y).toNat + row)) := by
  simp [State.landing_eq, State.liveCoordinate, hx, hy]

/-- With ordinary coordinate registers there is a first collision exactly when the image meets a set pixel. -/
theorem State.FirstCollision.isSome_iff {s : State} {x y : Reg} {n : Nat} {first : Option (Nat × Nat)}
    (h : s.FirstCollision x y n first) (hx : x ≠ Reg.flag) (hy : y ≠ Reg.flag) : first.isSome = true ↔
      ∃ cx cy, s.fb.pixel cx cy = true ∧ SpriteCovers s (s.getV x).toNat (s.getV y).toNat n cx cy := by
  constructor
  · intro hsome
    obtain ⟨⟨row, bit⟩, rfl⟩ := Option.isSome_iff_exists.mp hsome
    obtain ⟨hrow, hbit, hhas, hpixel⟩ := h.1
    exact ⟨_, _, hpixel, (spriteCovers_iff_landing (s.landing_ordinary hx hy none)).mp ⟨row, hrow, bit, hbit, hhas, rfl⟩⟩
  · rintro ⟨cx, cy, hpixel, hcovers⟩
    obtain ⟨row, hrow, bit, hbit, hhas, hland⟩ :=
      (spriteCovers_iff_landing (s.landing_ordinary hx hy none)).mpr hcovers
    rcases first with _ | p
    · exact absurd ⟨hrow, hbit, hhas, by rw [hland]; exact hpixel⟩ (h row bit)
    · rfl

/-- Settles O39: ordinary coordinates do not move, so that the bits are the sprite's image. -/
theorem drawXorsSpriteAndReportsCollision : Obligations.DrawXorsSpriteAndReportsCollision := by
  intro s x y n hx hy hn hin
  obtain ⟨first, hfirst⟩ := s.exists_firstCollision x y n
  obtain ⟨hflag, hpixels⟩ := State.drawSprite_spec hfirst hn
  refine ⟨s.drawSprite x y n, exec_drw x y hin, fun cx cy => ?pixels, fun hhit => ?hit, fun hmiss => ?miss,
    s.screenAndFlagOnly_drawSprite x y n⟩
  case pixels => rw [hpixels, spriteCovers_iff_landing (s.landing_ordinary hx hy first)]
  case hit => rw [hflag, (hfirst.isSome_iff hx hy).mpr hhit]; rfl
  case miss => rw [hflag, Bool.eq_false_iff.mpr ((hfirst.isSome_iff hx hy).not.mpr hmiss)]; rfl

/-- The image of a sprite depends on memory and `I` only. -/
theorem ScreenAndFlagOnly.spriteCovers_iff {s t : State} (h : ScreenAndFlagOnly s t) {x0 y0 n : Nat} {cx : Fin 64}
    {cy : Fin 32} : SpriteCovers t x0 y0 n cx cy ↔ SpriteCovers s x0 y0 n cx cy := by
  obtain ⟨hframe, -, hmem⟩ := h
  have hi : t.i = s.i := by rw [hframe]
  simp only [SpriteCovers, hi, hmem _]

/-- Two draws of the same image at a pixel. -/
theorem xor_xor_cancel_right (p q : Prop) : Xor (Xor p q) q ↔ p := by
  by_cases hq : q <;> simp [hq, Xor]

/-- A covered pixel is set after a draw exactly when it was clear before. -/
theorem xor_and_right_iff (p q : Prop) : Xor p q ∧ q ↔ ¬ p ∧ q := by
  by_cases hq : q <;> simp [hq, Xor]

/-- Settles O40: the second draw XORs the same image, and a pixel of it is set in between exactly when it was clear before. -/
theorem drawingTwiceRestoresTheScreen : Obligations.DrawingTwiceRestoresTheScreen := by
  intro s x y n hx hy hn hin
  obtain ⟨t, ht, hpixels, -, -, hframe⟩ := drawXorsSpriteAndReportsCollision s x y n hx hy hn hin
  have hin' : n = 0 ∨ t.indexed (n - 1) ≤ 0xFFF := by
    rw [State.indexed, hframe.1]
    exact hin
  obtain ⟨u, hu, hpixels', hhit, hmiss, -⟩ := drawXorsSpriteAndReportsCollision t x y n hx hy hn hin'
  rw [hframe.2.1 x hx, hframe.2.1 y hy] at hhit hmiss hpixels'
  simp only [hframe.spriteCovers_iff, hpixels] at hhit hmiss hpixels'
  refine ⟨t, u, ht, hu, Framebuffer.ext_pixel fun cx cy => ?restored, ?second⟩
  case restored =>
    rw [Bool.eq_iff_iff, hpixels', xor_xor_cancel_right]
  case second =>
    simp only [xor_and_right_iff, Bool.not_eq_true] at hhit hmiss
    refine ⟨fun hone => ?_, hhit⟩
    by_contra hnone
    rw [hmiss hnone] at hone
    exact absurd hone (by decide)

/-- `VF` holds a flag all the time while a sprite is drawn (R151). -/
theorem State.exists_flag_drawRow (x y : Reg) (row : Nat) {s : State} (h : ∃ c, s.getV Reg.flag = flagByte c) :
    ∃ c, (State.drawRow x y s row).getV Reg.flag = flagByte c := by
  refine foldl_range_keeps (P := fun _ t => ∃ c, t.getV Reg.flag = flagByte c) h 8 fun bit _ t ht => ?_
  obtain ⟨c, hc⟩ := ht
  unfold State.drawBit
  split_ifs
  · rw [State.getV_hitPixel, if_pos rfl, hc, flagByte_or]
    exact ⟨_, rfl⟩
  · exact ⟨c, hc⟩

/-- Settles O41: the frame of drawing holds for every row count, and each row leaves a flag in `VF`. -/
theorem drawCompletesForEveryOperand : Obligations.DrawCompletesForEveryOperand := by
  intro s x y n hin
  have hstart : (s.setFlag false).getV Reg.flag = flagByte false := by rw [State.getV_setFlag, if_pos rfl]
  obtain ⟨c, hc⟩ : ∃ c, (s.drawSprite x y n).getV Reg.flag = flagByte c :=
    foldl_range_keeps (P := fun _ t => ∃ c, t.getV Reg.flag = flagByte c) ⟨false, hstart⟩ n
      fun row _ _ => State.exists_flag_drawRow x y row
  refine ⟨s.drawSprite x y n, exec_drw x y hin, ?flag, ?empty, s.screenAndFlagOnly_drawSprite x y n⟩
  case flag =>
    rw [hc]
    cases c
    · exact .inl rfl
    · exact .inr rfl
  case empty =>
    rintro rfl
    exact ⟨rfl, hstart⟩

/-- Settles O42: on a clear screen nothing collides, so that the flag register reads 0 as a coordinate. -/
theorem drawOnClearScreenSetsTheImage : Obligations.DrawOnClearScreenSetsTheImage := by
  intro s x y n hn hin hclear
  have hfirst : s.FirstCollision x y n none := fun row bit ⟨_, _, _, hpixel⟩ => by
    rw [hclear] at hpixel
    cases hpixel
  obtain ⟨hflag, hpixels⟩ := State.drawSprite_spec hfirst hn
  refine ⟨s.drawSprite x y n, exec_drw x y hin, hflag, fun cx cy => ?_⟩
  have hland (row bit : Nat) : s.landing x y none row bit =
      (Fin.ofNat 64 ((if x = Reg.flag then 0 else (s.getV x).toNat) + bit),
        Fin.ofNat 32 ((if y = Reg.flag then 0 else (s.getV y).toNat) + row)) := rfl
  rw [hpixels, hclear, spriteCovers_iff_landing hland]
  simp [Xor]

end Sys2Proof.Machine
end
